-- ==== Sys2Proof/Word.lean ====
section
/-! DEFINITION. The unit of every value of the block: the byte (00_scope.md R9, R10), and sequences of bytes (R11). -/

namespace Sys2Proof

/-- A byte: an unsigned integer 0..255 (00_scope.md R10). Bit 7 is the most significant. -/
abbrev Byte := BitVec 8

/-- A sequence of bytes, index 0 first on the wire (00_scope.md R11, 20_memory.md R40). -/
abbrev Bytes := List Byte

end Sys2Proof
end

