-- ==== Sys2Proof/Config.lean ====
section
/-! DEFINITION. The configuration CFG, fixed for the life of the instance (00_scope.md R8, 10_state.md R26). -/

namespace Sys2Proof

/-- The fixed outgoing header `A6 01 00 00 00` (00_scope.md R8, HDR_FIXED; not configurable). -/
def hdrFixed : Vector Byte 5 := #v[0xA6, 0x01, 0x00, 0x00, 0x00]

/-- The command byte of every request body (00_scope.md R8, CMD_BYTE; not configurable). -/
def cmdByte : Byte := 0x01

/-- The wire opcode of input-source set (00_scope.md R8, OP_SRC_SET; not configurable). -/
def opSrcSet : Byte := 0xAC

/-- Where a field comes from: an index into the response region `R` and a mask (43_catalog_demux.md R163). -/
structure FieldRule where
  index : Nat
  mask : Byte
deriving DecidableEq, Repr

/-- RESP_RULE for every get entry, one rule per slot, so that which slots an entry writes cannot be
configured (43_catalog_demux.md R163). -/
structure RespRules where
  pwr : FieldRule
  srcT : FieldRule
  srcN : FieldRule
  vol : FieldRule
  pfmt : FieldRule
  bri : FieldRule
  con : FieldRule
  shp : FieldRule
  temp : FieldRule
  pip : FieldRule
  ser : Vector FieldRule 14
deriving DecidableEq, Repr

/-- ECHO, one bit for each of the eight get entries (00_scope.md R8, 43_catalog_demux.md R162). -/
structure EchoBits where
  pwrGet : Bool
  srcGet : Bool
  volGet : Bool
  pfmtGet : Bool
  vidGet : Bool
  tempGet : Bool
  pipGet : Bool
  serGet : Bool
deriving DecidableEq, Repr

/-- CFG: the eleven wire opcodes the source does not give, the response rules, the echo bits and the
maximum sequence length, `none` for unbounded (00_scope.md R8). -/
structure Config where
  opPwrGet : Byte
  opPwrSet : Byte
  opSrcGet : Byte
  opVolGet : Byte
  opVolSet : Byte
  opPfmtGet : Byte
  opPfmtSet : Byte
  opVidGet : Byte
  opTempGet : Byte
  opPipGet : Byte
  opSerGet : Byte
  resp : RespRules
  echo : EchoBits
  maxLen : Option Nat
deriving DecidableEq, Repr

end Sys2Proof
end

