-- ==== Sys2Proof/Syntax.lean ====
section
/-! DEFINITION. The catalog entries and the instructions, one constructor per row of the opcode table. -/

namespace Sys2Proof

/-- A catalog entry, in the order of its ENT value (30_encoding.md R63). -/
inductive Entry where
  | pwrGet
  | pwrSet
  | srcGet
  | srcSet
  | volGet
  | volSet
  | pfmtGet
  | pfmtSet
  | vidGet
  | tempGet
  | pipGet
  | serGet
deriving DecidableEq, Repr

/-- The operations of the block (30_encoding.md R62, R63). `ent` is the ENT nibble of an operation that
ignores it (R72); no meaning reads it, and it is kept so that an instruction is exactly its request word
(log entry 11). The operands are the input ports, not fields of the request (R61). -/
inductive Instr where
  /-- XFOLD, 40_checksum.md R101. -/
  | xfold (ent : BitVec 4)
  /-- CSUM, R102. -/
  | csum (ent : BitVec 4)
  /-- VERIFY, R103. -/
  | verify (ent : BitVec 4)
  /-- ENCODE, 41_frame_codec.md R120. -/
  | encode (ent : BitVec 4)
  /-- DECODE, R122. -/
  | decode (ent : BitVec 4)
  /-- ACLR, 40_checksum.md R104. -/
  | aclr (ent : BitVec 4)
  /-- AFEED, R105. -/
  | afeed (ent : BitVec 4)
  /-- BUILD.PWR_GET, 42_catalog_mux.md R147. -/
  | buildPwrGet
  /-- BUILD.PWR_SET, 42_catalog_mux.md R148. -/
  | buildPwrSet
  /-- BUILD.SRC_GET, 42_catalog_mux.md R149. -/
  | buildSrcGet
  /-- BUILD.SRC_SET, 42_catalog_mux.md R150. -/
  | buildSrcSet
  /-- BUILD.VOL_GET, 42_catalog_mux.md R151. -/
  | buildVolGet
  /-- BUILD.VOL_SET, 42_catalog_mux.md R152. -/
  | buildVolSet
  /-- BUILD.PFMT_GET, 42_catalog_mux.md R153. -/
  | buildPfmtGet
  /-- BUILD.PFMT_SET, 42_catalog_mux.md R154. -/
  | buildPfmtSet
  /-- BUILD.VID_GET, 42_catalog_mux.md R155. -/
  | buildVidGet
  /-- BUILD.TEMP_GET, 42_catalog_mux.md R156. -/
  | buildTempGet
  /-- BUILD.PIP_GET, 42_catalog_mux.md R157. -/
  | buildPipGet
  /-- BUILD.SER_GET, 42_catalog_mux.md R158. -/
  | buildSerGet
  /-- PARSE.PWR_GET, 43_catalog_demux.md R166. -/
  | parsePwrGet
  /-- PARSE.PWR_SET, 43_catalog_demux.md R167. -/
  | parsePwrSet
  /-- PARSE.SRC_GET, 43_catalog_demux.md R168. -/
  | parseSrcGet
  /-- PARSE.SRC_SET, 43_catalog_demux.md R169. -/
  | parseSrcSet
  /-- PARSE.VOL_GET, 43_catalog_demux.md R170. -/
  | parseVolGet
  /-- PARSE.VOL_SET, 43_catalog_demux.md R171. -/
  | parseVolSet
  /-- PARSE.PFMT_GET, 43_catalog_demux.md R172. -/
  | parsePfmtGet
  /-- PARSE.PFMT_SET, 43_catalog_demux.md R173. -/
  | parsePfmtSet
  /-- PARSE.VID_GET, 43_catalog_demux.md R174. -/
  | parseVidGet
  /-- PARSE.TEMP_GET, 43_catalog_demux.md R175. -/
  | parseTempGet
  /-- PARSE.PIP_GET, 43_catalog_demux.md R176. -/
  | parsePipGet
  /-- PARSE.SER_GET, 43_catalog_demux.md R177. -/
  | parseSerGet
deriving DecidableEq, Repr

end Sys2Proof
end

