-- ==== Sys2Proof/Decode.lean ====
section
/-! DEFINITION. The request word (30_encoding.md R60): decoding it, total and rejecting by name, and encoding
an instruction back. -/

namespace Sys2Proof

/-- Why a request word selects no instruction (30_encoding.md R70, R71). Neither stops the block: the
transaction ends with the status of the same name (60_exceptions.md R201). -/
inductive Illegal where
  /-- OP is 0x0 or 0xA to 0xF (R70). -/
  | op
  /-- OP is BUILD or PARSE and ENT is 0xC to 0xF (R71). -/
  | entry
deriving DecidableEq, Repr

/-- `REQ[3:0]`, the operation (30_encoding.md R60). -/
def reqOp (w : Byte) : BitVec 4 := w.extractLsb' 0 4

/-- `REQ[7:4]`, the catalog entry (30_encoding.md R60). -/
def reqEnt (w : Byte) : BitVec 4 := w.extractLsb' 4 4

/-- The request word `(ENT << 4) | OP` (30_encoding.md R75). -/
def reqWord (ent op : BitVec 4) : Byte := ent ++ op

/-- The entry an ENT value selects, if it is not reserved (30_encoding.md R63, R71). -/
def decodeEntry (ent : BitVec 4) : Option Entry :=
  match ent with
  | 0x0#4 => some .pwrGet
  | 0x1#4 => some .pwrSet
  | 0x2#4 => some .srcGet
  | 0x3#4 => some .srcSet
  | 0x4#4 => some .volGet
  | 0x5#4 => some .volSet
  | 0x6#4 => some .pfmtGet
  | 0x7#4 => some .pfmtSet
  | 0x8#4 => some .vidGet
  | 0x9#4 => some .tempGet
  | 0xA#4 => some .pipGet
  | 0xB#4 => some .serGet
  | _ => none

/-- The ENT value of an entry (30_encoding.md R63). -/
def Entry.ent (e : Entry) : BitVec 4 :=
  match e with
  | .pwrGet => 0x0
  | .pwrSet => 0x1
  | .srcGet => 0x2
  | .srcSet => 0x3
  | .volGet => 0x4
  | .volSet => 0x5
  | .pfmtGet => 0x6
  | .pfmtSet => 0x7
  | .vidGet => 0x8
  | .tempGet => 0x9
  | .pipGet => 0xA
  | .serGet => 0xB

/-- BUILD of an entry (42_catalog_mux.md R140). -/
def buildOf (e : Entry) : Instr :=
  match e with
  | .pwrGet => .buildPwrGet
  | .pwrSet => .buildPwrSet
  | .srcGet => .buildSrcGet
  | .srcSet => .buildSrcSet
  | .volGet => .buildVolGet
  | .volSet => .buildVolSet
  | .pfmtGet => .buildPfmtGet
  | .pfmtSet => .buildPfmtSet
  | .vidGet => .buildVidGet
  | .tempGet => .buildTempGet
  | .pipGet => .buildPipGet
  | .serGet => .buildSerGet

/-- PARSE of an entry (43_catalog_demux.md R160). -/
def parseOf (e : Entry) : Instr :=
  match e with
  | .pwrGet => .parsePwrGet
  | .pwrSet => .parsePwrSet
  | .srcGet => .parseSrcGet
  | .srcSet => .parseSrcSet
  | .volGet => .parseVolGet
  | .volSet => .parseVolSet
  | .pfmtGet => .parsePfmtGet
  | .pfmtSet => .parsePfmtSet
  | .vidGet => .parseVidGet
  | .tempGet => .parseTempGet
  | .pipGet => .parsePipGet
  | .serGet => .parseSerGet

/-- The instruction a request word selects (30_encoding.md R62, R63, R70 to R72). A reserved OP is
rejected before ENT is looked at (60_exceptions.md R206). -/
def decode (w : Byte) : Except Illegal Instr :=
  match reqOp w with
  | 0x1#4 => .ok (.xfold (reqEnt w))
  | 0x2#4 => .ok (.csum (reqEnt w))
  | 0x3#4 => .ok (.verify (reqEnt w))
  | 0x4#4 => .ok (.encode (reqEnt w))
  | 0x5#4 => .ok (.decode (reqEnt w))
  | 0x6#4 =>
    match decodeEntry (reqEnt w) with
    | some e => .ok (buildOf e)
    | none => .error .entry
  | 0x7#4 =>
    match decodeEntry (reqEnt w) with
    | some e => .ok (parseOf e)
    | none => .error .entry
  | 0x8#4 => .ok (.aclr (reqEnt w))
  | 0x9#4 => .ok (.afeed (reqEnt w))
  | _ => .error .op

/-- The request word of an instruction (30_encoding.md R62, R63, R75). -/
def encode (i : Instr) : Byte :=
  match i with
  | .xfold ent => reqWord ent 0x1
  | .csum ent => reqWord ent 0x2
  | .verify ent => reqWord ent 0x3
  | .encode ent => reqWord ent 0x4
  | .decode ent => reqWord ent 0x5
  | .aclr ent => reqWord ent 0x8
  | .afeed ent => reqWord ent 0x9
  | .buildPwrGet => 0x06
  | .buildPwrSet => 0x16
  | .buildSrcGet => 0x26
  | .buildSrcSet => 0x36
  | .buildVolGet => 0x46
  | .buildVolSet => 0x56
  | .buildPfmtGet => 0x66
  | .buildPfmtSet => 0x76
  | .buildVidGet => 0x86
  | .buildTempGet => 0x96
  | .buildPipGet => 0xA6
  | .buildSerGet => 0xB6
  | .parsePwrGet => 0x07
  | .parsePwrSet => 0x17
  | .parseSrcGet => 0x27
  | .parseSrcSet => 0x37
  | .parseVolGet => 0x47
  | .parseVolSet => 0x57
  | .parsePfmtGet => 0x67
  | .parsePfmtSet => 0x77
  | .parseVidGet => 0x87
  | .parseTempGet => 0x97
  | .parsePipGet => 0xA7
  | .parseSerGet => 0xB7

/-- The instruction the decoder reads from an opcode-table word. REQ is 8 bits (R60), so the request is
bits 7..0 of `w` whatever `nbits` is; any higher bit is no part of a request (log entry 12). -/
def decodeTableWord (_nbits w : Nat) : Option Instr :=
  match decode (BitVec.ofNat 8 w) with
  | .ok i => some i
  | .error _ => none

end Sys2Proof
end

