-- ==== Sys2Proof/Machine/Instance.lean ====
section
/-! DEFINITION. The spec's default response rules and echo bits, and the test configuration CFG0: the instance
`State.reset` stands on (log entry 2). No meaning reads this file: every meaning reads the state's own
configuration. -/

namespace Sys2Proof

/-- A whole byte of the response region, unmasked (43_catalog_demux.md R163). -/
def FieldRule.whole (k : Nat) : FieldRule := ⟨k, 0xFF⟩

/-- The spec's default RESP_RULE; PFMT_GET's rule is fixed by the source (43_catalog_demux.md R163). -/
def RespRules.specDefault : RespRules where
  pwr := .whole 1
  srcT := .whole 1
  srcN := .whole 2
  vol := .whole 1
  pfmt := ⟨1, 0x03⟩
  bri := .whole 1
  con := .whole 2
  shp := .whole 3
  temp := .whole 1
  pip := .whole 1
  ser := Vector.ofFn fun i => .whole (1 + i.val)

/-- The spec's default ECHO: 1 for every get entry (43_catalog_demux.md R162). -/
def EchoBits.specDefault : EchoBits where
  pwrGet := true
  srcGet := true
  volGet := true
  pfmtGet := true
  vidGet := true
  tempGet := true
  pipGet := true
  serGet := true

/-- The test configuration CFG0 of 92_eei_decisions.md D15 with the default rules and the MAX_LEN of
95_test_vectors.md. PRESUMED: its opcode values are marked "from general knowledge, not in source" (log
entry 2). -/
def Config.cfg0 : Config where
  opPwrGet := 0x19
  opPwrSet := 0x18
  opSrcGet := 0xAD
  opVolGet := 0x45
  opVolSet := 0x44
  opPfmtGet := 0x3B
  opPfmtSet := 0x3A
  opVidGet := 0x33
  opTempGet := 0x2F
  opPipGet := 0x85
  opSerGet := 0x15
  resp := .specDefault
  echo := .specDefault
  maxLen := some 261

end Sys2Proof
end

