-- ==== Sys2Proof/Machine/State.lean ====
section
/-! DEFINITION. The state: the register ACC, the configuration, the ports, and what the host does next
(10_state.md). Plain data, with the reasons a step can be refused. -/

namespace Sys2Proof.Machine

/-- The input ports, all presented at once (10_state.md R22). -/
structure Ports where
  req : Byte
  p0 : Byte
  p1 : Byte
  hdr : Vector Byte 5
  din : Bytes
deriving DecidableEq, Repr

/-- The status of a transaction (60_exceptions.md R200). -/
inductive Status where
  | ok
  | empty
  | truncated
  | checksumMismatch
  | lengthMismatch
  | unexpectedOpcode
  | payloadShort
  | tooLong
  | illegalOp
  | illegalEntry
deriving DecidableEq, Repr

/-- The class of a status (60_exceptions.md R202). -/
inductive StatusClass where
  | success
  | noReply
  | checksumFailed
  | opcodeMismatch
  | callerError
deriving DecidableEq, Repr

/-- The field groups of FV, bit 0 first (10_state.md R24). -/
inductive Group where
  | power
  | source
  | volume
  | pictureFormat
  | video
  | temperature
  | pipSource
  | serialNumber
deriving DecidableEq, Repr

/-- The byte slots of FLD (10_state.md R24). -/
inductive Slot where
  | pwr
  | srcT
  | srcN
  | vol
  | pfmt
  | bri
  | con
  | shp
  | temp
  | pip
  | ser (i : Fin 14)
deriving DecidableEq, Repr

/-- The field record FLD, one raw byte for each slot (10_state.md R24). -/
structure Fields where
  pwr : Byte
  srcT : Byte
  srcN : Byte
  vol : Byte
  pfmt : Byte
  bri : Byte
  con : Byte
  shp : Byte
  temp : Byte
  pip : Byte
  ser : Vector Byte 14
deriving DecidableEq, Repr

/-- The output ports of one transaction (10_state.md R23). ST and CLS are held by name; their port values
are `Status.code` and `StatusClass.code` (log entry 13). -/
structure Outputs where
  st : Status
  cls : StatusClass
  rb : Byte
  rf : Bool
  dout : Bytes
  opc : Byte
  ctl : Byte
  len : Byte
  fld : Fields
  fv : BitVec 8
deriving DecidableEq, Repr

/-- What the host does to the block, one at a time (20_memory.md R49; log entries 4, 6 and 7). -/
inductive HostEvent where
  /-- Presents one transaction. -/
  | present (p : Ports)
  /-- Presents two or more transactions at once, outside the contract (20_memory.md R50). -/
  | together (p q : Ports) (more : List Ports)
  /-- Resets the block (70_reset_and_hazards.md R230). -/
  | reset
deriving DecidableEq, Repr

/-- A fault of the machine. There is none: "no behaviour of the block ends in a fault or hangs"
(93_implementation_defined.md), every error is a status (60_exceptions.md R204). Safe: nothing is lost, since
the spec gives every transaction a result. -/
inductive Fault where
deriving DecidableEq, Repr

/-- Why the model gives no step. -/
inductive Refusal where
  /-- An arm of `exec` with no meaning yet. No arm raises it. Safe. -/
  | notModelled (mnemonic : String)
  /-- Raised by `step` when the configuration breaks a constraint (70_reset_and_hazards.md R233). Safe. -/
  | configNotAdmitted
  /-- Raised by `step` when two transactions are presented at once (20_memory.md R50). Safe. -/
  | concurrentTransactions
  /-- Raised by `step` when the host presents nothing; the block has no step for waiting (60_exceptions.md
  R225, log entry 5). Safe. -/
  | noTransaction
  /-- Raised by `readOutputs` before the first transaction after reset has ended (70_reset_and_hazards.md
  R231). Safe. -/
  | noOutputYet
deriving DecidableEq, Repr

/-- The machine. `acc` is the block's only register (10_state.md R20, R21). -/
structure State where
  /-- CFG, which no step changes (10_state.md R26; log entry 1). -/
  cfg : Config
  /-- ACC (10_state.md R21). -/
  acc : Byte
  /-- The input ports as the host last drove them (10_state.md R22; log entry 3). -/
  ports : Ports
  /-- The output ports; `none` while the block has given no result (10_state.md R32; log entry 8). -/
  outputs : Option Outputs
  /-- What the host does next, oldest first (20_memory.md R49; log entry 4). -/
  stream : List HostEvent
deriving DecidableEq, Repr

/-- The input ports before the host has driven any. DESIGN CHOICE, the spec gives no value (log entry 3). -/
def Ports.undriven : Ports := ⟨0, 0, 0, Vector.replicate 5 0, []⟩

/-- The state after reset of an instance with configuration `c` (10_state.md R32, 70_reset_and_hazards.md
R230, R234): ACC zero, no outputs, `c` unchanged, and nothing presented yet. -/
def State.resetWith (c : Config) : State where
  cfg := c
  acc := 0x00
  ports := .undriven
  outputs := none
  stream := []

/-- The state after reset of the instance CFG0 (log entry 2). -/
def State.reset : State := State.resetWith Config.cfg0

end Sys2Proof.Machine
end

