-- ==== Sys2Proof/Machine/Flags.lean ====
section
/-! DEFINITION. The coded outputs: status numbers, classes and their numbers, and the field-valid mask. The
block has no condition codes (10_state.md R27). -/

namespace Sys2Proof.Machine

/-- The value of a status on `ST[3:0]` (60_exceptions.md R200). -/
def Status.code (st : Status) : BitVec 4 :=
  match st with
  | .ok => 0x0
  | .empty => 0x1
  | .truncated => 0x2
  | .checksumMismatch => 0x3
  | .lengthMismatch => 0x4
  | .unexpectedOpcode => 0x5
  | .payloadShort => 0x6
  | .tooLong => 0x7
  | .illegalOp => 0x8
  | .illegalEntry => 0x9

/-- The class of a status, `class(S)` (60_exceptions.md R202). -/
def Status.cls (st : Status) : StatusClass :=
  match st with
  | .ok => .success
  | .empty => .noReply
  | .truncated => .noReply
  | .lengthMismatch => .noReply
  | .checksumMismatch => .checksumFailed
  | .unexpectedOpcode => .opcodeMismatch
  | .payloadShort => .opcodeMismatch
  | .tooLong => .callerError
  | .illegalOp => .callerError
  | .illegalEntry => .callerError

/-- The value of a class on `CLS[2:0]` (60_exceptions.md R202). -/
def StatusClass.code (c : StatusClass) : BitVec 3 :=
  match c with
  | .success => 0
  | .noReply => 1
  | .checksumFailed => 2
  | .opcodeMismatch => 3
  | .callerError => 4

/-- The status a request word that selects no instruction ends with (30_encoding.md R70, R71). -/
def illegalStatus (e : Illegal) : Status :=
  match e with
  | .op => .illegalOp
  | .entry => .illegalEntry

/-- The FV bit of a group (10_state.md R24). -/
def Group.bit (g : Group) : Nat :=
  match g with
  | .power => 0
  | .source => 1
  | .volume => 2
  | .pictureFormat => 3
  | .video => 4
  | .temperature => 5
  | .pipSource => 6
  | .serialNumber => 7

/-- The FV mask of a PARSE that wrote the slots of group `g`: `1 << group(e)` (43_catalog_demux.md R160). -/
def Group.mask (g : Group) : BitVec 8 := 1#8 <<< g.bit

/-- The group a slot belongs to (10_state.md R24). -/
def Slot.group (slot : Slot) : Group :=
  match slot with
  | .pwr => .power
  | .srcT => .source
  | .srcN => .source
  | .vol => .volume
  | .pfmt => .pictureFormat
  | .bri => .video
  | .con => .video
  | .shp => .video
  | .temp => .temperature
  | .pip => .pipSource
  | .ser _ => .serialNumber

end Sys2Proof.Machine
end

