-- ==== Sys2Proof/Machine/Operands.lean ====
section
/-! DEFINITION. Operands and the Command Catalog: what a port receives, what an entry's opcode, body shape,
echo bit and response rule are. -/

namespace Sys2Proof.Machine

/-- What a host value becomes on the 8-bit port `P0` or `P1`: its bits [7:0] (10_state.md R22). -/
def hostByte (v : Nat) : Byte := BitVec.ofNat 8 v

/-- The ports as a host drives them, its parameter values of any width (10_state.md R22). -/
def Ports.drive (req : Byte) (p0 p1 : Nat) (hdr : Vector Byte 5) (din : Bytes) : Ports :=
  ⟨req, hostByte p0, hostByte p1, hdr, din⟩

/-- Whether a sequence of `n` bytes is longer than MAX_LEN (00_scope.md R8, 60_exceptions.md R200). -/
def exceedsMax (c : Config) (n : Nat) : Bool :=
  match c.maxLen with
  | none => false
  | some m => decide (m < n)

/-- `s[i]` (00_scope.md R11). Every use is guarded by a length check that puts `i` inside `s`; the default
is never seen. -/
def byteAt (s : Bytes) (i : Nat) : Byte := s.getD i 0

/-- The slice `s[i..j)` (00_scope.md R11). -/
def slice (s : Bytes) (i j : Nat) : Bytes := (s.drop i).take (j - i)

/-- The kind of a catalog entry (30_encoding.md R63). -/
inductive Kind where
  | get
  | simpleSet
  | sourceSet
deriving DecidableEq, Repr

/-- The kind of each entry (30_encoding.md R63). -/
def entryKind (e : Entry) : Kind :=
  match e with
  | .pwrGet => .get
  | .pwrSet => .simpleSet
  | .srcGet => .get
  | .srcSet => .sourceSet
  | .volGet => .get
  | .volSet => .simpleSet
  | .pfmtGet => .get
  | .pfmtSet => .simpleSet
  | .vidGet => .get
  | .tempGet => .get
  | .pipGet => .get
  | .serGet => .get

/-- WOP(e), the wire opcode of an entry (30_encoding.md R63). -/
def wop (c : Config) (e : Entry) : Byte :=
  match e with
  | .pwrGet => c.opPwrGet
  | .pwrSet => c.opPwrSet
  | .srcGet => c.opSrcGet
  | .srcSet => opSrcSet
  | .volGet => c.opVolGet
  | .volSet => c.opVolSet
  | .pfmtGet => c.opPfmtGet
  | .pfmtSet => c.opPfmtSet
  | .vidGet => c.opVidGet
  | .tempGet => c.opTempGet
  | .pipGet => c.opPipGet
  | .serGet => c.opSerGet

/-- ECHO(e) of a get entry; a set entry has no echo check (43_catalog_demux.md R161, R162). -/
def echoBit (c : Config) (e : Entry) : Bool :=
  match e with
  | .pwrGet => c.echo.pwrGet
  | .pwrSet => false
  | .srcGet => c.echo.srcGet
  | .srcSet => false
  | .volGet => c.echo.volGet
  | .volSet => false
  | .pfmtGet => c.echo.pfmtGet
  | .pfmtSet => false
  | .vidGet => c.echo.vidGet
  | .tempGet => c.echo.tempGet
  | .pipGet => c.echo.pipGet
  | .serGet => c.echo.serGet

/-- The field group a PARSE of the entry fills, none for a set entry (30_encoding.md R63). -/
def entryGroup (e : Entry) : Option Group :=
  match e with
  | .pwrGet => some .power
  | .pwrSet => none
  | .srcGet => some .source
  | .srcSet => none
  | .volGet => some .volume
  | .volSet => none
  | .pfmtGet => some .pictureFormat
  | .pfmtSet => none
  | .vidGet => some .video
  | .tempGet => some .temperature
  | .pipGet => some .pipSource
  | .serGet => some .serialNumber

/-- One element of RESP_RULE(e): a slot and where its value comes from (43_catalog_demux.md R163). -/
structure SlotRule where
  slot : Slot
  index : Nat
  mask : Byte
deriving DecidableEq, Repr

/-- The rule of one slot. -/
def slotRule (slot : Slot) (r : FieldRule) : SlotRule := ⟨slot, r.index, r.mask⟩

/-- RESP_RULE(e), in the order of the slots; a set entry writes no slot (43_catalog_demux.md R161, R163). -/
def respRule (c : Config) (e : Entry) : List SlotRule :=
  match e with
  | .pwrGet => [slotRule .pwr c.resp.pwr]
  | .pwrSet => []
  | .srcGet => [slotRule .srcT c.resp.srcT, slotRule .srcN c.resp.srcN]
  | .srcSet => []
  | .volGet => [slotRule .vol c.resp.vol]
  | .volSet => []
  | .pfmtGet => [slotRule .pfmt c.resp.pfmt]
  | .pfmtSet => []
  | .vidGet => [slotRule .bri c.resp.bri, slotRule .con c.resp.con, slotRule .shp c.resp.shp]
  | .tempGet => [slotRule .temp c.resp.temp]
  | .pipGet => [slotRule .pip c.resp.pip]
  | .serGet => (List.finRange 14).map fun i => slotRule (.ser i) c.resp.ser[i]

/-- BODY(e, P0, P1): the request body of an entry, by its kind (42_catalog_mux.md R142 to R144, R146). -/
def bodyOf (c : Config) (e : Entry) (p0 p1 : Byte) : Bytes :=
  match entryKind e with
  | .get => [0x03, cmdByte, wop c e, 0x00]
  | .simpleSet => [0x04, cmdByte, wop c e, p0, 0x00]
  | .sourceSet => [0x07, cmdByte, wop c e, p0, p1, 0x01, 0x00, 0x00]

end Sys2Proof.Machine
end

