-- ==== Sys2Proof/Machine/Ops.lean ====
section
/-! DEFINITION. The operations every meaning is made of: the XOR-fold, framing, the reply decoder DCORE, the
field extraction, and the two ways a transaction ends. -/

namespace Sys2Proof.Machine

/-- `XF(s)`, the XOR-fold of a sequence, 0 for the empty one (40_checksum.md R100). -/
def xorFold (s : Bytes) : Byte := s.foldl (fun a b => a ^^^ b) 0x00

/-- `pre ++ [XF(pre)]`: a sequence with its checksum appended (41_frame_codec.md R120, 42_catalog_mux.md
R140). -/
def withChecksum (pre : Bytes) : Bytes := pre ++ [xorFold pre]

/-- The fold of every byte but the last, 0 for the empty sequence (40_checksum.md R102). -/
def slotChecksum (s : Bytes) : Byte :=
  if s.length = 0 then 0x00 else xorFold (slice s 0 (s.length - 1))

/-- Whether the last byte equals the fold of all bytes before it; the empty sequence does not verify
(40_checksum.md R103). -/
def verifies (s : Bytes) : Bool :=
  if s.length = 0 then false
  else decide (xorFold (slice s 0 (s.length - 1)) = byteAt s (s.length - 1))

/-- The field record with every slot 0x00 (60_exceptions.md R205). -/
def Fields.cleared : Fields where
  pwr := 0x00
  srcT := 0x00
  srcN := 0x00
  vol := 0x00
  pfmt := 0x00
  bri := 0x00
  con := 0x00
  shp := 0x00
  temp := 0x00
  pip := 0x00
  ser := Vector.replicate 14 0x00

/-- The outputs of status `st` with every other output at its cleared value (60_exceptions.md R205). -/
def Outputs.cleared (st : Status) : Outputs where
  st := st
  cls := st.cls
  rb := 0x00
  rf := false
  dout := []
  opc := 0x00
  ctl := 0x00
  len := 0x00
  fld := .cleared
  fv := 0x00

/-- The cleared outputs of a transaction that ends with OK; a meaning overwrites those it names
(60_exceptions.md R205). -/
def Outputs.ok : Outputs := Outputs.cleared .ok

/-- `raise S`: the transaction ends at once with status `S`, every other output cleared, ACC kept
(00_scope.md R12, 60_exceptions.md R205, R209). The one way an error is taken; there is no return from
it (R210). -/
def raise (st : Status) (s : State) : Host.Outcome State Fault Refusal :=
  .next { s with outputs := some (Outputs.cleared st) }

/-- A transaction that reaches the end of its procedure with outputs `o` (00_scope.md R12). -/
def complete (o : Outputs) (s : State) : Host.Outcome State Fault Refusal :=
  .next { s with outputs := some o }

/-- What a reply frame holds: its length byte, command byte, opcode and reply data (30_encoding.md R68). -/
structure Reply where
  len : Byte
  ctl : Byte
  opc : Byte
  data : Bytes
deriving DecidableEq, Repr

/-- DCORE: validates a reply frame and splits it, or gives the status to raise, the tests in order
(41_frame_codec.md R122, R123). -/
def dcore (c : Config) (din : Bytes) : Except Status Reply :=
  if exceedsMax c din.length then .error .tooLong
  else if din.length = 0 then .error .empty
  else if din.length < 7 then .error .truncated
  else if !verifies din then .error .checksumMismatch
  else if (byteAt din 4).toNat < 2 ∨ din.length ≠ (byteAt din 4).toNat + 6 then .error .lengthMismatch
  else .ok ⟨byteAt din 4, byteAt din 5, byteAt din 6, slice din 7 (din.length - 1)⟩

/-- The response region `R = [OPC] ++ reply data` (41_frame_codec.md R128). -/
def Reply.region (r : Reply) : Bytes := r.opc :: r.data

/-- The outputs of a decoded reply: LEN, CTL, OPC and DOUT (41_frame_codec.md R122). -/
def Reply.outputs (r : Reply) : Outputs :=
  { Outputs.ok with len := r.len, ctl := r.ctl, opc := r.opc, dout := r.data }

/-- `FLD.slot <- v` (43_catalog_demux.md R160). -/
def Fields.write (f : Fields) (slot : Slot) (v : Byte) : Fields :=
  match slot with
  | .pwr => { f with pwr := v }
  | .srcT => { f with srcT := v }
  | .srcN => { f with srcN := v }
  | .vol => { f with vol := v }
  | .pfmt => { f with pfmt := v }
  | .bri => { f with bri := v }
  | .con => { f with con := v }
  | .shp => { f with shp := v }
  | .temp => { f with temp := v }
  | .pip => { f with pip := v }
  | .ser i => { f with ser := f.ser.set i v }

/-- The value of a slot (10_state.md R24). -/
def Fields.read (f : Fields) (slot : Slot) : Byte :=
  match slot with
  | .pwr => f.pwr
  | .srcT => f.srcT
  | .srcN => f.srcN
  | .vol => f.vol
  | .pfmt => f.pfmt
  | .bri => f.bri
  | .con => f.con
  | .shp => f.shp
  | .temp => f.temp
  | .pip => f.pip
  | .ser i => f.ser[i]

/-- Whether an index of a response rule lies outside the response region (43_catalog_demux.md R164). -/
def anyOutside (rules : List SlotRule) (region : Bytes) : Bool :=
  rules.any fun r => decide (region.length ≤ r.index)

/-- `FLD.slot <- R[k] & mask` for each element of a response rule, on a cleared record
(43_catalog_demux.md R160, R165). -/
def extractFields (rules : List SlotRule) (region : Bytes) : Fields :=
  rules.foldl (fun f r => f.write r.slot (byteAt region r.index &&& r.mask)) Fields.cleared

/-- The request frame of an entry, behind the fixed header (42_catalog_mux.md R140, R141). -/
def requestFrame (c : Config) (e : Entry) (p0 p1 : Byte) : Bytes :=
  withChecksum (hdrFixed.toList ++ bodyOf c e p0 p1)

/-- BUILD of an entry: the mux (42_catalog_mux.md R140). -/
def buildEntry (e : Entry) (s : State) : Host.Outcome State Fault Refusal :=
  complete { Outputs.ok with dout := requestFrame s.cfg e s.ports.p0 s.ports.p1 } s

/-- PARSE of a get entry: the frame checks, the echo check, then the entry's fields, all or none
(43_catalog_demux.md R160, R162, R164, R165). -/
def parseGet (e : Entry) (g : Group) (s : State) : Host.Outcome State Fault Refusal :=
  match dcore s.cfg s.ports.din with
  | .error st => raise st s
  | .ok r =>
    if echoBit s.cfg e && decide (r.opc ≠ wop s.cfg e) then raise .unexpectedOpcode s
    else if anyOutside (respRule s.cfg e) r.region then raise .payloadShort s
    else complete { r.outputs with fld := extractFields (respRule s.cfg e) r.region, fv := g.mask } s

/-- PARSE of a set entry: the frame checks only, no field written (43_catalog_demux.md R161). -/
def parseSet (s : State) : Host.Outcome State Fault Refusal :=
  match dcore s.cfg s.ports.din with
  | .error st => raise st s
  | .ok r => complete r.outputs s

/-- PARSE of an entry: the demux (43_catalog_demux.md R160). -/
def parseEntry (e : Entry) (s : State) : Host.Outcome State Fault Refusal :=
  match entryGroup e with
  | some g => parseGet e g s
  | none => parseSet s

/-- The host presents a transaction: the ports take its values and it leaves the stream (10_state.md R22,
20_memory.md R49). -/
def accept (p : Ports) (rest : List HostEvent) (s : State) : State :=
  { s with ports := p, stream := rest }

/-- Reset: ACC is cleared and the outputs hold no value; nothing else changes (70_reset_and_hazards.md R230,
R231, 10_state.md R32). -/
def resetBlock (rest : List HostEvent) (s : State) : State :=
  { s with acc := 0x00, outputs := none, stream := rest }

/-- Reading the output ports, refused before the first transaction after reset (70_reset_and_hazards.md
R231). -/
def readOutputs (s : State) : Except Refusal Outputs :=
  match s.outputs with
  | some o => .ok o
  | none => .error .noOutputYet

/-- `LOOP(f) = f[0..4) ++ f[5..]`: the loopback stub that turns a request header into a reply header
(41_frame_codec.md R129). -/
def loopFrame (f : Bytes) : Bytes := slice f 0 4 ++ f.drop 5

end Sys2Proof.Machine
end

