-- ==== Sys2Proof/Machine/Checksum.lean ====
section
/-! DEFINITION. The meanings of the XOR checksum generator (40_checksum.md). -/

namespace Sys2Proof.Machine

/-- XFOLD (40_checksum.md R101). -/
def execXfold (s : State) : Host.Outcome State Fault Refusal :=
  if exceedsMax s.cfg s.ports.din.length then raise .tooLong s
  else complete { Outputs.ok with rb := xorFold s.ports.din } s

/-- CSUM (40_checksum.md R102). -/
def execCsum (s : State) : Host.Outcome State Fault Refusal :=
  if exceedsMax s.cfg s.ports.din.length then raise .tooLong s
  else complete { Outputs.ok with rb := slotChecksum s.ports.din } s

/-- VERIFY (40_checksum.md R103). A sequence that does not verify is a result, not an error. -/
def execVerify (s : State) : Host.Outcome State Fault Refusal :=
  if exceedsMax s.cfg s.ports.din.length then raise .tooLong s
  else complete { Outputs.ok with rf := verifies s.ports.din } s

/-- ACLR (40_checksum.md R104). -/
def execAclr (s : State) : Host.Outcome State Fault Refusal :=
  complete { Outputs.ok with rb := 0x00 } { s with acc := 0x00 }

/-- AFEED (40_checksum.md R105). -/
def execAfeed (s : State) : Host.Outcome State Fault Refusal :=
  complete { Outputs.ok with rb := s.acc ^^^ s.ports.p0 } { s with acc := s.acc ^^^ s.ports.p0 }

end Sys2Proof.Machine
end

