-- ==== Sys2Proof/Machine/Demux.lean ====
section
/-! DEFINITION. The meanings of the opcode-payload demux: PARSE of each catalog entry (43_catalog_demux.md). -/

namespace Sys2Proof.Machine

/-- PARSE.PWR_GET: the power state from a reply (43_catalog_demux.md R166). -/
def execParsePwrGet (s : State) : Host.Outcome State Fault Refusal := parseEntry .pwrGet s

/-- PARSE.PWR_SET: acknowledgement of setting the power state (43_catalog_demux.md R167). -/
def execParsePwrSet (s : State) : Host.Outcome State Fault Refusal := parseEntry .pwrSet s

/-- PARSE.SRC_GET: the input source from a reply (43_catalog_demux.md R168). -/
def execParseSrcGet (s : State) : Host.Outcome State Fault Refusal := parseEntry .srcGet s

/-- PARSE.SRC_SET: acknowledgement of setting the input source (43_catalog_demux.md R169). -/
def execParseSrcSet (s : State) : Host.Outcome State Fault Refusal := parseEntry .srcSet s

/-- PARSE.VOL_GET: the volume from a reply (43_catalog_demux.md R170). -/
def execParseVolGet (s : State) : Host.Outcome State Fault Refusal := parseEntry .volGet s

/-- PARSE.VOL_SET: acknowledgement of setting the volume (43_catalog_demux.md R171). -/
def execParseVolSet (s : State) : Host.Outcome State Fault Refusal := parseEntry .volSet s

/-- PARSE.PFMT_GET: the picture format from a reply (43_catalog_demux.md R172). -/
def execParsePfmtGet (s : State) : Host.Outcome State Fault Refusal := parseEntry .pfmtGet s

/-- PARSE.PFMT_SET: acknowledgement of setting the picture format (43_catalog_demux.md R173). -/
def execParsePfmtSet (s : State) : Host.Outcome State Fault Refusal := parseEntry .pfmtSet s

/-- PARSE.VID_GET: the video parameters from a reply (43_catalog_demux.md R174). -/
def execParseVidGet (s : State) : Host.Outcome State Fault Refusal := parseEntry .vidGet s

/-- PARSE.TEMP_GET: the temperature from a reply (43_catalog_demux.md R175). -/
def execParseTempGet (s : State) : Host.Outcome State Fault Refusal := parseEntry .tempGet s

/-- PARSE.PIP_GET: the picture-in-picture source from a reply (43_catalog_demux.md R176). -/
def execParsePipGet (s : State) : Host.Outcome State Fault Refusal := parseEntry .pipGet s

/-- PARSE.SER_GET: the serial number from a reply (43_catalog_demux.md R177). -/
def execParseSerGet (s : State) : Host.Outcome State Fault Refusal := parseEntry .serGet s

end Sys2Proof.Machine
end

