-- ==== Sys2Proof/Machine/FrameCodec.lean ====
section
/-! DEFINITION. The meanings of the frame encoder and decoder (41_frame_codec.md). -/

namespace Sys2Proof.Machine

/-- ENCODE (41_frame_codec.md R120): HDR, the body on DIN, and the checksum of both. -/
def execEncode (s : State) : Host.Outcome State Fault Refusal :=
  if exceedsMax s.cfg (s.ports.din.length + 6) then raise .tooLong s
  else complete { Outputs.ok with dout := withChecksum (s.ports.hdr.toList ++ s.ports.din) } s

/-- DECODE (41_frame_codec.md R122). -/
def execDecode (s : State) : Host.Outcome State Fault Refusal :=
  match dcore s.cfg s.ports.din with
  | .error st => raise st s
  | .ok r => complete r.outputs s

end Sys2Proof.Machine
end

