-- ==== Sys2Proof/Machine/Mux.lean ====
section
/-! DEFINITION. The meanings of the opcode-payload mux: BUILD of each catalog entry (42_catalog_mux.md). -/

namespace Sys2Proof.Machine

/-- BUILD.PWR_GET: request the power state (42_catalog_mux.md R147). -/
def execBuildPwrGet (s : State) : Host.Outcome State Fault Refusal := buildEntry .pwrGet s

/-- BUILD.PWR_SET: set the power state (42_catalog_mux.md R148). -/
def execBuildPwrSet (s : State) : Host.Outcome State Fault Refusal := buildEntry .pwrSet s

/-- BUILD.SRC_GET: request the input source (42_catalog_mux.md R149). -/
def execBuildSrcGet (s : State) : Host.Outcome State Fault Refusal := buildEntry .srcGet s

/-- BUILD.SRC_SET: set the input source (42_catalog_mux.md R150). -/
def execBuildSrcSet (s : State) : Host.Outcome State Fault Refusal := buildEntry .srcSet s

/-- BUILD.VOL_GET: request the volume (42_catalog_mux.md R151). -/
def execBuildVolGet (s : State) : Host.Outcome State Fault Refusal := buildEntry .volGet s

/-- BUILD.VOL_SET: set the volume (42_catalog_mux.md R152). -/
def execBuildVolSet (s : State) : Host.Outcome State Fault Refusal := buildEntry .volSet s

/-- BUILD.PFMT_GET: request the picture format (42_catalog_mux.md R153). -/
def execBuildPfmtGet (s : State) : Host.Outcome State Fault Refusal := buildEntry .pfmtGet s

/-- BUILD.PFMT_SET: set the picture format (42_catalog_mux.md R154). -/
def execBuildPfmtSet (s : State) : Host.Outcome State Fault Refusal := buildEntry .pfmtSet s

/-- BUILD.VID_GET: request the video parameters (42_catalog_mux.md R155). -/
def execBuildVidGet (s : State) : Host.Outcome State Fault Refusal := buildEntry .vidGet s

/-- BUILD.TEMP_GET: request the temperature (42_catalog_mux.md R156). -/
def execBuildTempGet (s : State) : Host.Outcome State Fault Refusal := buildEntry .tempGet s

/-- BUILD.PIP_GET: request the picture-in-picture source (42_catalog_mux.md R157). -/
def execBuildPipGet (s : State) : Host.Outcome State Fault Refusal := buildEntry .pipGet s

/-- BUILD.SER_GET: request the serial number (42_catalog_mux.md R158). -/
def execBuildSerGet (s : State) : Host.Outcome State Fault Refusal := buildEntry .serGet s

end Sys2Proof.Machine
end

