-- ==== Sys2Proof/Machine/Dispatch.lean ====
section
/-! DEFINITION. One arm per instruction. The ENT nibble of an operation that ignores it is dropped here
(30_encoding.md R72). -/

namespace Sys2Proof.Machine

def exec (i : Instr) (s : State) : Host.Outcome State Fault Refusal :=
  match i with
  | .xfold _ => Sys2Proof.Machine.execXfold s
  | .csum _ => Sys2Proof.Machine.execCsum s
  | .verify _ => Sys2Proof.Machine.execVerify s
  | .encode _ => Sys2Proof.Machine.execEncode s
  | .decode _ => Sys2Proof.Machine.execDecode s
  | .aclr _ => Sys2Proof.Machine.execAclr s
  | .afeed _ => Sys2Proof.Machine.execAfeed s
  | .buildPwrGet => Sys2Proof.Machine.execBuildPwrGet s
  | .buildPwrSet => Sys2Proof.Machine.execBuildPwrSet s
  | .buildSrcGet => Sys2Proof.Machine.execBuildSrcGet s
  | .buildSrcSet => Sys2Proof.Machine.execBuildSrcSet s
  | .buildVolGet => Sys2Proof.Machine.execBuildVolGet s
  | .buildVolSet => Sys2Proof.Machine.execBuildVolSet s
  | .buildPfmtGet => Sys2Proof.Machine.execBuildPfmtGet s
  | .buildPfmtSet => Sys2Proof.Machine.execBuildPfmtSet s
  | .buildVidGet => Sys2Proof.Machine.execBuildVidGet s
  | .buildTempGet => Sys2Proof.Machine.execBuildTempGet s
  | .buildPipGet => Sys2Proof.Machine.execBuildPipGet s
  | .buildSerGet => Sys2Proof.Machine.execBuildSerGet s
  | .parsePwrGet => Sys2Proof.Machine.execParsePwrGet s
  | .parsePwrSet => Sys2Proof.Machine.execParsePwrSet s
  | .parseSrcGet => Sys2Proof.Machine.execParseSrcGet s
  | .parseSrcSet => Sys2Proof.Machine.execParseSrcSet s
  | .parseVolGet => Sys2Proof.Machine.execParseVolGet s
  | .parseVolSet => Sys2Proof.Machine.execParseVolSet s
  | .parsePfmtGet => Sys2Proof.Machine.execParsePfmtGet s
  | .parsePfmtSet => Sys2Proof.Machine.execParsePfmtSet s
  | .parseVidGet => Sys2Proof.Machine.execParseVidGet s
  | .parseTempGet => Sys2Proof.Machine.execParseTempGet s
  | .parsePipGet => Sys2Proof.Machine.execParsePipGet s
  | .parseSerGet => Sys2Proof.Machine.execParseSerGet s

end Sys2Proof.Machine
end

