-- ==== Sys2Proof/WellFormed.lean ====
section
/-! DEFINITION. Which configurations are admitted (70_reset_and_hazards.md R233). An instruction needs no
check of its own: its only field is the 4-bit ENT nibble, every value of which is legal (30_encoding.md R72). -/

namespace Sys2Proof

/-- The twelve wire opcodes of a configuration, in the order of 30_encoding.md R63. -/
def Config.opcodes (c : Config) : List Byte :=
  [c.opPwrGet, c.opPwrSet, c.opSrcGet, opSrcSet, c.opVolGet, c.opVolSet, c.opPfmtGet, c.opPfmtSet,
    c.opVidGet, c.opTempGet, c.opPipGet, c.opSerGet]

/-- Whether the bytes of a sequence are pairwise distinct. -/
def allDistinct (s : Bytes) : Bool :=
  match s with
  | [] => true
  | b :: rest => !rest.contains b && allDistinct rest

/-- R233 (a): the twelve wire opcodes are pairwise distinct. -/
def Config.opcodesDistinct (c : Config) : Bool := allDistinct c.opcodes

/-- R233 (b): MAX_LEN is unbounded or at least 261. -/
def Config.maxLenOk (c : Config) : Bool :=
  match c.maxLen with
  | none => true
  | some m => decide (261 ≤ m)

/-- R233 (c): RESP_RULE(PFMT_GET) is `PFMT ← R[1] & 0x03`. -/
def Config.pfmtRuleFixed (c : Config) : Bool := decide (c.resp.pfmt = ⟨1, 0x03⟩)

/-- A configuration the block can be instantiated with (R233). Clauses (d) and (e) hold by the types of
`FieldRule` and `EchoBits`. -/
def Config.admitted (c : Config) : Bool := c.opcodesDistinct && c.maxLenOk && c.pfmtRuleFixed

end Sys2Proof
end

