-- ==== Sys2Proof/Machine/Step.lean ====
section
/-! DEFINITION. One step: the next thing the host does to the block, a whole transaction at a time
(20_memory.md R45, R49). -/

namespace Sys2Proof.Machine

/-- One step. A configuration that breaks its constraints gets no step (70_reset_and_hazards.md R233), nor do
two transactions at once (20_memory.md R50) or none (60_exceptions.md R225, log entry 5). A request word that
selects no instruction is a transaction that ends with its status (60_exceptions.md R201). -/
def step (s : State) : Host.Outcome State Fault Refusal :=
  match s.cfg.admitted with
  | false => .refused .configNotAdmitted
  | true =>
    match s.stream with
    | [] => .refused .noTransaction
    | .together _ _ _ :: _ => .refused .concurrentTransactions
    | .reset :: rest => .next (resetBlock rest s)
    | .present p :: rest =>
      match decode p.req with
      | .ok i => exec i (accept p rest s)
      | .error e => raise (illegalStatus e) (accept p rest s)

/-- `s` with the request word `w` presented next. Where a transaction is presented next already, only its
request word is replaced; otherwise one is presented before the rest, its other ports as they now stand.
REQ is 8 bits, so the bits of `w` above bit 7 are no part of it (log entries 4 and 12). -/
def State.withFetchWord (s : State) (_nbits w : Nat) : State :=
  match s.stream with
  | .present p :: rest => { s with stream := .present { p with req := BitVec.ofNat 8 w } :: rest }
  | other => { s with stream := .present { s.ports with req := BitVec.ofNat 8 w } :: other }

end Sys2Proof.Machine
end

