-- ==== Sys2Proof/Safety.lean ====
section
/-! DEFINITION. What counts as a safe run, the invariant of the outputs, the host contract, and the spec's own
words for frames that the claims are stated in, written apart from the functions the meanings use. -/

namespace Sys2Proof.Machine

/-- Whether a host event keeps the contract: transactions are presented one at a time (60_exceptions.md
R219). -/
def HostEvent.serialised (e : HostEvent) : Bool :=
  match e with
  | .present _ => true
  | .together _ _ _ => false
  | .reset => true

/-- A safe start: an admitted configuration and a host that serialises (70_reset_and_hazards.md R233,
60_exceptions.md R219). -/
def Safe (s : State) : Prop := s.cfg.admitted = true ∧ ∀ e ∈ s.stream, e.serialised = true

/-- `k` steps, stopping at the first that is not a next state: Host.Core.run of the machine. -/
def run (k : Nat) (s : State) : Host.Outcome State Fault Refusal :=
  match k with
  | 0 => .next s
  | k + 1 =>
    match step s with
    | .next t => run k t
    | .fault r => .fault r
    | .refused r => .refused r

/-- A sequence of `n` bytes is not longer than MAX_LEN (00_scope.md R8). -/
def fits (c : Config) (n : Nat) : Prop := ∀ m, c.maxLen = some m → n ≤ m

/-- A sequence of `n` bytes is longer than MAX_LEN, which is then bounded (00_scope.md R8). -/
def tooLongFor (c : Config) (n : Nat) : Prop := ∃ m, c.maxLen = some m ∧ m < n

/-- `s[0] ⊕ s[1] ⊕ … ⊕ s[|s|-1]`, and 0x00 for the empty sequence (40_checksum.md R100), read from the front. -/
def xorAll (s : Bytes) : Byte :=
  match s with
  | [] => 0x00
  | b :: rest => b ^^^ xorAll rest

/-- The reply frame of 30_encoding.md R68: header `h` (4 bytes), length byte, command byte, opcode, reply data,
checksum. The length byte is the number of data bytes plus 2, so it is a byte when there are at most 253. -/
def replyFrame (h : Bytes) (ctl opc : Byte) (data : Bytes) : Bytes :=
  let pre := h ++ [BitVec.ofNat 8 (data.length + 2), ctl, opc] ++ data
  pre ++ [xorAll pre]

/-- DIN holds a reply frame with this content, no longer than MAX_LEN. -/
def HoldsReply (s : State) (h : Bytes) (ctl opc : Byte) (data : Bytes) : Prop :=
  h.length = 4 ∧ data.length ≤ 253 ∧ fits s.cfg (data.length + 8) ∧
    s.ports.din = replyFrame h ctl opc data

/-- The outputs of a decoded reply that writes no field (41_frame_codec.md R122, R128). -/
def replyOutputs (ctl opc : Byte) (data : Bytes) : Outputs :=
  { Outputs.ok with len := BitVec.ofNat 8 (data.length + 2), ctl := ctl, opc := opc, dout := data }

/-- The value a field rule takes from the response region, if its index is inside (43_catalog_demux.md R163,
R164). -/
def fieldOf (r : FieldRule) (region : Bytes) : Option Byte := region[r.index]?.map (· &&& r.mask)

/-- The transaction `s` runs with the sequence `d` on DIN. -/
def State.withDin (s : State) (d : Bytes) : State := { s with ports := { s.ports with din := d } }

/-- A get entry as the tables of 30_encoding.md R63 and 43_catalog_demux.md R162, R163 give it: its PARSE, its
echo bit, its wire opcode, and the indices its response rule reads. -/
structure GetRow where
  parse : Instr
  echo : Bool
  opcode : Byte
  indices : List Nat
deriving DecidableEq, Repr

/-- The eight get entries of a configuration. -/
def getRows (c : Config) : List GetRow :=
  [⟨.parsePwrGet, c.echo.pwrGet, c.opPwrGet, [c.resp.pwr.index]⟩,
    ⟨.parseSrcGet, c.echo.srcGet, c.opSrcGet, [c.resp.srcT.index, c.resp.srcN.index]⟩,
    ⟨.parseVolGet, c.echo.volGet, c.opVolGet, [c.resp.vol.index]⟩,
    ⟨.parsePfmtGet, c.echo.pfmtGet, c.opPfmtGet, [c.resp.pfmt.index]⟩,
    ⟨.parseVidGet, c.echo.vidGet, c.opVidGet, [c.resp.bri.index, c.resp.con.index, c.resp.shp.index]⟩,
    ⟨.parseTempGet, c.echo.tempGet, c.opTempGet, [c.resp.temp.index]⟩,
    ⟨.parsePipGet, c.echo.pipGet, c.opPipGet, [c.resp.pip.index]⟩,
    ⟨.parseSerGet, c.echo.serGet, c.opSerGet, c.resp.ser.toList.map FieldRule.index⟩]

/-- The slots of FLD in the order of 10_state.md R24. -/
def Slot.all : List Slot :=
  [.pwr, .srcT, .srcN, .vol, .pfmt, .bri, .con, .shp, .temp, .pip] ++ (List.finRange 14).map .ser

/-- What the rules promise of every transaction's outputs: the class of the status (60_exceptions.md R202),
nothing but the status after a failure (R205), at most one FV bit and no slot outside its group
(10_state.md R24, 43_catalog_demux.md R165), a picture format of two bits (R172), and LEN, when given, two more
than the reply data (41_frame_codec.md R123), with CTL, OPC and FV only beside it. -/
structure Outputs.Lawful (o : Outputs) : Prop where
  classOfStatus : o.cls = o.st.cls
  clearedOnFailure : o.st ≠ .ok → o = Outputs.cleared o.st
  oneGroup : o.fv = 0 ∨ ∃ g : Group, o.fv = g.mask
  slotsInGroup : ∀ slot : Slot, o.fv ≠ slot.group.mask → o.fld.read slot = 0
  pictureFormatTwoBits : o.fld.pfmt.toNat < 4
  lengthCountsData : o.len ≠ 0 → o.len.toNat = o.dout.length + 2
  replyOutputsTogether : o.len = 0 → o.ctl = 0 ∧ o.opc = 0 ∧ o.fv = 0

/-- The invariant every step keeps: whatever outputs the block holds are lawful. -/
def Inv (s : State) : Prop := ∀ o, s.outputs = some o → o.Lawful

/-- The entry of a BUILD or PARSE (30_encoding.md R61). -/
def entryOf (i : Instr) : Option Entry :=
  match i with
  | .xfold _ => none
  | .csum _ => none
  | .verify _ => none
  | .encode _ => none
  | .decode _ => none
  | .aclr _ => none
  | .afeed _ => none
  | .buildPwrGet => some .pwrGet
  | .buildPwrSet => some .pwrSet
  | .buildSrcGet => some .srcGet
  | .buildSrcSet => some .srcSet
  | .buildVolGet => some .volGet
  | .buildVolSet => some .volSet
  | .buildPfmtGet => some .pfmtGet
  | .buildPfmtSet => some .pfmtSet
  | .buildVidGet => some .vidGet
  | .buildTempGet => some .tempGet
  | .buildPipGet => some .pipGet
  | .buildSerGet => some .serGet
  | .parsePwrGet => some .pwrGet
  | .parsePwrSet => some .pwrSet
  | .parseSrcGet => some .srcGet
  | .parseSrcSet => some .srcSet
  | .parseVolGet => some .volGet
  | .parseVolSet => some .volSet
  | .parsePfmtGet => some .pfmtGet
  | .parsePfmtSet => some .pfmtSet
  | .parseVidGet => some .vidGet
  | .parseTempGet => some .tempGet
  | .parsePipGet => some .pipGet
  | .parseSerGet => some .serGet

/-- An instruction that reads or writes ACC: ACLR or AFEED (10_state.md R21). -/
def touchesAcc (i : Instr) : Prop := ∃ ent, i = .aclr ent ∨ i = .afeed ent

/-- One exchange of the host: BUILD of an entry, then PARSE of the same entry on the bytes read
(60_exceptions.md R218). -/
def exchange (e : Entry) (p : Ports) (reply : Bytes) : List HostEvent :=
  [.present { p with req := reqWord e.ent 0x6 }, .present { p with req := reqWord e.ent 0x7, din := reply }]

/-- The bytes that the AFEEDs of a sequence of transactions fold in, in order (40_checksum.md R109). -/
def fedBytes (ps : List Ports) : Bytes := (ps.filter fun p => decide (reqOp p.req = 0x9)).map Ports.p0

/-- The host's Device State Snapshot, as raw bytes (60_exceptions.md R222); no part of the block. -/
structure Snapshot where
  power : Byte
  sourceType : Byte
  sourceNumber : Byte
  volume : Byte
  pictureFormat : Byte
  brightness : Byte
  contrast : Byte
  sharpness : Byte
  temperature : Byte
  serialNumber : Vector Byte 14
deriving DecidableEq, Repr

/-- How the host updates its snapshot from the outputs of a transaction: with status OK, the fields of the
group FV marks; the PIP source feeds none (60_exceptions.md R221, 10_state.md R24). -/
def Snapshot.update (n : Snapshot) (o : Outputs) : Snapshot :=
  if o.st ≠ .ok then n
  else if o.fv = Group.power.mask then { n with power := o.fld.pwr }
  else if o.fv = Group.source.mask then { n with sourceType := o.fld.srcT, sourceNumber := o.fld.srcN }
  else if o.fv = Group.volume.mask then { n with volume := o.fld.vol }
  else if o.fv = Group.pictureFormat.mask then { n with pictureFormat := o.fld.pfmt }
  else if o.fv = Group.video.mask then
    { n with brightness := o.fld.bri, contrast := o.fld.con, sharpness := o.fld.shp }
  else if o.fv = Group.temperature.mask then { n with temperature := o.fld.temp }
  else if o.fv = Group.serialNumber.mask then { n with serialNumber := o.fld.ser }
  else n

end Sys2Proof.Machine
end

