-- ==== Sys2Proof/Certificates/Slice0/Obligations.lean ====
section
/-! DEFINITION. The statements for the provers, in the order of spec/. A statement about one configuration is
made for every configuration; none rests on CFG0. -/

open Sys2Proof Sys2Proof.Machine

/-! ### Request words (30_encoding.md) -/

/-- 30_encoding.md R60, R62, R63, R72: a request word is an instruction's word in exactly one way, so no bit of
REQ is dropped or read twice. -/
def Obligations.RequestWordIffInstruction : Prop :=
  ∀ (w : Byte) (i : Instr), decode w = .ok i ↔ w = encode i

/-- 30_encoding.md R62, R63: words written out from the tables decode to the instruction they stand for. -/
def Obligations.WrittenOutWordsDecode : Prop :=
  decode 0b00000001 = .ok (.xfold 0x0) ∧ decode 0b11110001 = .ok (.xfold 0xF) ∧
  decode 0b00000100 = .ok (.encode 0x0) ∧ decode 0b00001000 = .ok (.aclr 0x0) ∧
  decode 0b00110110 = .ok .buildSrcSet ∧ decode 0b10110110 = .ok .buildSerGet ∧
  decode 0b01100111 = .ok .parsePfmtGet ∧ decode 0b10000111 = .ok .parseVidGet ∧
  decode 0b00001010 = .error .op ∧ decode 0b11100110 = .error .entry

/-- 30_encoding.md R76: how the 256 request words divide, by value and by count. -/
def Obligations.RequestSpaceDivides : Prop :=
  let words : List Byte := (List.range 256).map (BitVec.ofNat 8)
  let plain : Byte → Bool := fun w => (decode w).toOption.any fun i => (entryOf i).isNone
  let catalog : Byte → Bool := fun w => (decode w).toOption.any fun i => (entryOf i).isSome
  (∀ w : Byte, plain w = true ↔ reqOp w ∈ ([0x1, 0x2, 0x3, 0x4, 0x5, 0x8, 0x9] : List (BitVec 4))) ∧
  (∀ w : Byte, catalog w = true ↔ reqOp w ∈ ([0x6, 0x7] : List (BitVec 4)) ∧ (reqEnt w).toNat < 12) ∧
  (∀ w : Byte, decode w = .error .entry ↔ reqOp w ∈ ([0x6, 0x7] : List (BitVec 4)) ∧ 12 ≤ (reqEnt w).toNat) ∧
  (∀ w : Byte, decode w = .error .op ↔
    reqOp w ∈ ([0x0, 0xA, 0xB, 0xC, 0xD, 0xE, 0xF] : List (BitVec 4))) ∧
  (words.filter plain).length = 112 ∧ (words.filter catalog).length = 24 ∧
  (words.filter fun w => decide ((decode w).toBool = false ∧ reqOp w ∈ ([0x6, 0x7] : List (BitVec 4)))).length = 8 ∧
  (words.filter fun w => decide ((decode w).toBool = false ∧ reqOp w ∉ ([0x6, 0x7] : List (BitVec 4)))).length = 112

/-- 30_encoding.md R72: for an operation other than BUILD and PARSE every ENT value is legal and selects the same
operation. -/
def Obligations.IgnoredEntNibbleChangesNothing : Prop :=
  ∀ op ∈ ([0x1, 0x2, 0x3, 0x4, 0x5, 0x8, 0x9] : List (BitVec 4)), ∀ e e' : BitVec 4,
    ∃ i i', decode (reqWord e op) = .ok i ∧ decode (reqWord e' op) = .ok i' ∧ ∀ s : State, exec i s = exec i' s

/-- 30_encoding.md R70: a transaction with a reserved OP ends with ILLEGAL_OP and changes nothing but the
outputs, whatever ENT holds. -/
def Obligations.ReservedOpEndsIllegalOp : Prop :=
  ∀ (s : State) (p : Ports) (rest : List HostEvent), s.cfg.admitted = true → s.stream = .present p :: rest →
    ((reqOp p.req).toNat = 0 ∨ 10 ≤ (reqOp p.req).toNat) →
    step s = .next { s with ports := p, stream := rest, outputs := some (Outputs.cleared .illegalOp) }

/-- 42_catalog_mux.md R159, 43_catalog_demux.md R178: BUILD and PARSE of a reserved entry end with ILLEGAL_ENTRY,
class CALLER_ERROR and an empty DOUT, whatever DIN holds. -/
def Obligations.ReservedEntryEndsIllegalEntry : Prop :=
  ∀ (s : State) (p : Ports) (rest : List HostEvent), s.cfg.admitted = true → s.stream = .present p :: rest →
    p.req ∈ ([0xC6, 0xD6, 0xE6, 0xF6, 0xC7, 0xD7, 0xE7, 0xF7] : List Byte) →
    ∃ o, step s = .next { s with ports := p, stream := rest, outputs := some o } ∧
      o = Outputs.cleared .illegalEntry ∧ o.cls = .callerError ∧ o.dout = []

/-! ### The machine: steps, reset, configuration -/

/-- A step on a presented transaction whose request word decodes runs exactly that instruction, on the
presented ports, and takes the transaction off the stream (20_memory.md R45, R49). -/
def Obligations.StepRunsDecodedInstruction : Prop :=
  ∀ (s : State) (p : Ports) (rest : List HostEvent) (i : Instr), s.cfg.admitted = true →
    s.stream = .present p :: rest → decode p.req = .ok i →
    step s = exec i { s with ports := p, stream := rest }

/-- 20_memory.md R50: two or more transactions presented at once are refused. -/
def Obligations.TogetherIsRefused : Prop :=
  ∀ (s : State) (p q : Ports) (more : List Ports) (rest : List HostEvent), s.stream = .together p q more :: rest →
    ∃ r, step s = .refused r ∧ (s.cfg.admitted = true → r = .concurrentTransactions)

/-- The model's choice of log entry 5, from 60_exceptions.md R225: the block takes no step while the host
presents nothing. -/
def Obligations.NoStepWithoutTransaction : Prop :=
  ∀ s : State, s.cfg.admitted = true → (s.stream = [] ↔ step s = .refused .noTransaction)

/-- 70_reset_and_hazards.md R233: the block has no step exactly for a configuration that breaks a constraint;
(d) and (e) hold of every configuration by type. -/
def Obligations.StepNeedsAdmittedConfig : Prop :=
  ∀ s : State, step s = .refused .configNotAdmitted ↔
    ¬ ([s.cfg.opPwrGet, s.cfg.opPwrSet, s.cfg.opSrcGet, 0xAC, s.cfg.opVolGet, s.cfg.opVolSet, s.cfg.opPfmtGet,
          s.cfg.opPfmtSet, s.cfg.opVidGet, s.cfg.opTempGet, s.cfg.opPipGet, s.cfg.opSerGet].Pairwise (· ≠ ·) ∧
        (∀ m, s.cfg.maxLen = some m → 261 ≤ m) ∧ s.cfg.resp.pfmt = ⟨1, 0x03⟩)

/-- The model's reset event (log entries 7 and 8), from 70_reset_and_hazards.md section 1: a reset clears ACC and
leaves the outputs without a value, which a read refuses; nothing else changes. -/
def Obligations.ResetClearsAcc : Prop :=
  ∀ (s : State) (rest : List HostEvent), s.cfg.admitted = true → s.stream = .reset :: rest →
    ∃ t, step s = .next t ∧ t = { s with acc := 0x00, outputs := none, stream := rest } ∧
      readOutputs t = .error .noOutputYet

/-- 10_state.md section 4: what every instance holds after reset. That State.reset's own configuration is admitted
rests on the model's choice of log entry 2. -/
def Obligations.StateAfterReset : Prop :=
  (∀ c : Config, (State.resetWith c).acc = 0x00 ∧ (State.resetWith c).cfg = c ∧
    readOutputs (State.resetWith c) = .error .noOutputYet) ∧
  State.reset.acc = 0x00 ∧ readOutputs State.reset = .error .noOutputYet ∧ State.reset.cfg.admitted = true

/-- The invariant holds of every instance after reset. -/
def Obligations.ResetMeetsInvariant : Prop := Inv State.reset ∧ ∀ c : Config, Inv (State.resetWith c)

/-- Every step keeps the outputs lawful: the class is the status's, a failure shows nothing but its status, at
most one group of fields is given and the rest are zero, the picture format has two bits, and LEN counts the
reply data (60_exceptions.md R202, R205, 43_catalog_demux.md R165, R172, 41_frame_codec.md R123). -/
def Obligations.StepKeepsInvariant : Prop :=
  ∀ s t : State, Inv s → step s = .next t → Inv t

/-- 10_state.md R26, 20_memory.md R49: a step never changes the configuration and takes exactly one event off the
stream. That the host's events are such a list (log entry 4), and that a reset too is one of them and keeps the rest
(log entry 7), is the model's choice: R49 speaks of transactions only. -/
def Obligations.StepKeepsConfigAndConsumes : Prop :=
  ∀ s t : State, step s = .next t → t.cfg = s.cfg ∧ ∃ e, s.stream = e :: t.stream

/-- 60_exceptions.md R204, 20_memory.md R45: every instruction completes in every state, and changes nothing but
ACC and the outputs, which it all gives. -/
def Obligations.EveryInstructionCompletes : Prop :=
  ∀ (i : Instr) (s : State), ∃ a o, exec i s = .next { s with acc := a, outputs := some o }

/-- 10_state.md R21, 30_encoding.md R80: only ACLR and AFEED write ACC. -/
def Obligations.OnlyAclrAfeedWriteAcc : Prop :=
  ∀ (i : Instr) (s t : State), ¬ touchesAcc i → exec i s = .next t → t.acc = s.acc

/-- 10_state.md R31: the outputs are a function of the input ports, CFG and, for ACLR and AFEED, ACC; earlier
outputs and what the host does later play no part. -/
def Obligations.OutputsAreFunctionOfInputs : Prop :=
  ∀ (i : Instr) (s t : State), s.cfg = t.cfg → s.ports = t.ports → (touchesAcc i → s.acc = t.acc) →
    ∃ o a b, exec i s = .next { s with acc := a, outputs := some o } ∧
      exec i t = .next { t with acc := b, outputs := some o } ∧ (touchesAcc i → a = b)

/-- 20_memory.md R46: an operation other than AFEED and ACLR has no side effect and is idempotent; two AFEEDs of
the same byte leave ACC as it was. -/
def Obligations.StatelessOperationsIdempotent : Prop :=
  (∀ (i : Instr) (s t : State), ¬ touchesAcc i → exec i s = .next t →
    t = { s with outputs := t.outputs } ∧ exec i t = .next t) ∧
  (∀ (e e' : BitVec 4) (s t u : State), exec (.afeed e) s = .next t → exec (.afeed e') t = .next u →
    u.acc = s.acc)

/-- 20_memory.md R49, 60_exceptions.md R204, R219: under a host that serialises, a run of any length goes through
every event the host presents, whatever statuses it meets, and is never refused. That a reset is an event of the
stream and keeps the rest of it is the model's choice (log entries 4 and 7). -/
def Obligations.SerialisedStreamRunsToEnd : Prop :=
  ∀ (s : State) (events rest : List HostEvent), s.cfg.admitted = true → s.stream = events ++ rest →
    (∀ e ∈ events, e.serialised = true) →
    ∃ t, run events.length s = .next t ∧ t.stream = rest ∧ t.cfg = s.cfg

/-! ### Statuses (60_exceptions.md) -/

/-- 60_exceptions.md R200, R202: the numbers of the statuses and of the classes, and the class of each status. -/
def Obligations.StatusAndClassNumbers : Prop :=
  [Status.ok, .empty, .truncated, .checksumMismatch, .lengthMismatch, .unexpectedOpcode, .payloadShort, .tooLong,
      .illegalOp, .illegalEntry].map Status.code = [0, 1, 2, 3, 4, 5, 6, 7, 8, 9] ∧
  [Status.ok, .empty, .truncated, .lengthMismatch, .checksumMismatch, .unexpectedOpcode, .payloadShort, .tooLong,
      .illegalOp, .illegalEntry].map (fun st => st.cls.code) = [0, 1, 1, 1, 2, 3, 3, 4, 4, 4] ∧
  (∀ st : Status, st.code.toNat ≤ 9 ∧ st.cls.code.toNat ≤ 4)

/-- 60_exceptions.md R209, R205: a failed transaction leaves ACC and shows nothing but its status and class. -/
def Obligations.FailureShowsOnlyStatus : Prop :=
  ∀ (i : Instr) (s t : State) (o : Outputs), exec i s = .next t → t.outputs = some o → o.st ≠ .ok →
    t = { s with outputs := some o } ∧ o.cls = o.st.cls ∧ o.rb = 0x00 ∧ o.rf = false ∧ o.dout = [] ∧
      o.opc = 0x00 ∧ o.ctl = 0x00 ∧ o.len = 0x00 ∧ (∀ slot, o.fld.read slot = 0x00) ∧ o.fv = 0x00

/-- 60_exceptions.md R207: the statuses each operation can give. -/
def Obligations.StatusesByOperation : Prop :=
  ∀ (i : Instr) (s t : State) (o : Outputs), exec i s = .next t → t.outputs = some o →
    (∀ e, (i = .xfold e ∨ i = .csum e ∨ i = .verify e ∨ i = .encode e) → o.st ∈ [Status.ok, .tooLong]) ∧
    (∀ e, (i = .aclr e ∨ i = .afeed e) → o.st = .ok) ∧
    (∀ e, i = buildOf e → o.st = .ok) ∧
    ((∃ e, i = .decode e) ∨ i ∈ [Instr.parsePwrSet, .parseSrcSet, .parseVolSet, .parsePfmtSet] →
      o.st ∈ [Status.ok, .tooLong, .empty, .truncated, .checksumMismatch, .lengthMismatch]) ∧
    (∀ row ∈ getRows s.cfg, i = row.parse →
      o.st ∉ [Status.illegalOp, .illegalEntry] ∧ (o.st = .unexpectedOpcode → row.echo = true))

/-! ### XOR checksum generator (40_checksum.md) -/

/-- 40_checksum.md R101: XFOLD. -/
def Obligations.XfoldGivesXorOfAllBytes : Prop :=
  ∀ ent : BitVec 4, decode (reqWord ent 0x1) = .ok (.xfold ent) ∧ ∀ s : State,
    (tooLongFor s.cfg s.ports.din.length →
      exec (.xfold ent) s = .next { s with outputs := some (Outputs.cleared .tooLong) }) ∧
    (fits s.cfg s.ports.din.length →
      exec (.xfold ent) s = .next { s with outputs := some { Outputs.ok with rb := xorAll s.ports.din } }) ∧
    (∀ (d : Bytes) (t : State), d.Perm s.ports.din → exec (.xfold ent) s = .next t →
      exec (.xfold ent) (s.withDin d) = .next { s.withDin d with outputs := t.outputs })

/-- 40_checksum.md R102, R108: CSUM gives the value that belongs in the last byte, which it does not read. -/
def Obligations.CsumGivesSlotValue : Prop :=
  ∀ ent : BitVec 4, decode (reqWord ent 0x2) = .ok (.csum ent) ∧ ∀ s : State,
    (tooLongFor s.cfg s.ports.din.length →
      exec (.csum ent) s = .next { s with outputs := some (Outputs.cleared .tooLong) }) ∧
    (fits s.cfg s.ports.din.length → s.ports.din = [] →
      exec (.csum ent) s = .next { s with outputs := some { Outputs.ok with rb := 0x00 } }) ∧
    (∀ (pre : Bytes) (x : Byte), fits s.cfg s.ports.din.length → s.ports.din = pre ++ [x] →
      exec (.csum ent) s = .next { s with outputs := some { Outputs.ok with rb := xorAll pre } })

/-- 40_checksum.md R103, R106: VERIFY says whether the last byte is the XOR of the others; a sequence that does
not verify is no error, and the empty one does not verify. -/
def Obligations.VerifyTestsLastByte : Prop :=
  ∀ ent : BitVec 4, decode (reqWord ent 0x3) = .ok (.verify ent) ∧ ∀ s : State,
    (tooLongFor s.cfg s.ports.din.length →
      exec (.verify ent) s = .next { s with outputs := some (Outputs.cleared .tooLong) }) ∧
    (fits s.cfg s.ports.din.length → s.ports.din = [] →
      exec (.verify ent) s = .next { s with outputs := some { Outputs.ok with rf := false } }) ∧
    (∀ (pre : Bytes) (x : Byte), fits s.cfg s.ports.din.length → s.ports.din = pre ++ [x] →
      exec (.verify ent) s = .next { s with outputs := some { Outputs.ok with rf := decide (x = xorAll pre) } })

/-- 40_checksum.md R104: ACLR. -/
def Obligations.AclrClearsAcc : Prop :=
  ∀ ent : BitVec 4, decode (reqWord ent 0x8) = .ok (.aclr ent) ∧ ∀ s : State,
    exec (.aclr ent) s = .next { s with acc := 0x00, outputs := some { Outputs.ok with rb := 0x00 } }

/-- 40_checksum.md R105: AFEED, with its corner cases. -/
def Obligations.AfeedFoldsByteIntoAcc : Prop :=
  ∀ ent : BitVec 4, decode (reqWord ent 0x9) = .ok (.afeed ent) ∧ ∀ s : State,
    ∃ v : Byte, exec (.afeed ent) s = .next { s with acc := v, outputs := some { Outputs.ok with rb := v } } ∧
      v = s.acc ^^^ s.ports.p0 ∧ (s.ports.p0 = 0x00 → v = s.acc) ∧ (s.ports.p0 = s.acc → v = 0x00) ∧
      v ^^^ s.ports.p0 = s.acc

/-- 40_checksum.md R107: a non-empty sequence verifies exactly when all its bytes fold to zero. -/
def Obligations.VerifyIffFoldsToZero : Prop :=
  ∀ (ent : BitVec 4) (s : State), s.ports.din ≠ [] → fits s.cfg s.ports.din.length →
    exec (.verify ent) s =
      .next { s with outputs := some { Outputs.ok with rf := decide (xorAll s.ports.din = 0x00) } }

/-- 40_checksum.md R109: after ACLR and any transactions without another ACLR, ACC is the XOR-fold of the bytes
the AFEEDs among them fed, whatever other transactions stand between. -/
def Obligations.StreamedFoldIsXorOfFedBytes : Prop :=
  ∀ (s : State) (c : Ports) (ps : List Ports) (rest : List HostEvent), s.cfg.admitted = true →
    reqOp c.req = 0x8 → (∀ p ∈ ps, reqOp p.req ≠ 0x8) →
    s.stream = .present c :: (ps.map HostEvent.present ++ rest) →
    ∃ t, run (ps.length + 1) s = .next t ∧
      t.acc = xorAll (fedBytes ps) ∧ t.stream = rest

/-- 40_checksum.md R110: the fold of a concatenation, its independence of byte order, and what VERIFY detects
(a changed byte) and does not (two bytes exchanged, the same bits flipped in two bytes). -/
def Obligations.VerifyDetection : Prop :=
  ∀ (ent : BitVec 4) (s : State) (a b c : Bytes) (x y m : Byte),
    let gives : Bytes → Bool → Prop := fun d f =>
      exec (.verify ent) (s.withDin d) = .next { s.withDin d with outputs := some { Outputs.ok with rf := f } }
    xorFold (a ++ b) = xorFold a ^^^ xorFold b ∧ (∀ d : Bytes, d.Perm a → xorFold d = xorFold a) ∧
    (fits s.cfg (a.length + 1 + b.length) → x ≠ y → gives (a ++ [x] ++ b) true → gives (a ++ [y] ++ b) false) ∧
    (fits s.cfg (a.length + 1 + b.length + 1 + c.length) → gives (a ++ [x] ++ b ++ [y] ++ c) true →
      gives (a ++ [y] ++ b ++ [x] ++ c) true ∧ gives (a ++ [x ^^^ m] ++ b ++ [y ^^^ m] ++ c) true)

/-! ### Frame encoder and decoder (41_frame_codec.md) -/

/-- 41_frame_codec.md R120: ENCODE frames any body behind any header, unless the frame would exceed MAX_LEN. -/
def Obligations.EncodeFramesBody : Prop :=
  ∀ ent : BitVec 4, decode (reqWord ent 0x4) = .ok (.encode ent) ∧ ∀ s : State,
    (tooLongFor s.cfg (s.ports.din.length + 6) →
      exec (.encode ent) s = .next { s with outputs := some (Outputs.cleared .tooLong) }) ∧
    (fits s.cfg (s.ports.din.length + 6) →
      exec (.encode ent) s = .next { s with outputs := some { Outputs.ok with
        dout := s.ports.hdr.toList ++ s.ports.din ++ [xorAll (s.ports.hdr.toList ++ s.ports.din)] } })

/-- 41_frame_codec.md R121: every frame ENCODE gives has the header and the body in place and verifies. -/
def Obligations.EncodedFrameVerifies : Prop :=
  ∀ (ent ent' : BitVec 4) (s : State), fits s.cfg (s.ports.din.length + 6) →
    ∃ f : Bytes, exec (.encode ent) s = .next { s with outputs := some { Outputs.ok with dout := f } } ∧
      f.length = s.ports.din.length + 6 ∧ f.take 5 = s.ports.hdr.toList ∧
      (f.drop 5).take s.ports.din.length = s.ports.din ∧
      exec (.verify ent') (s.withDin f) =
        .next { s.withDin f with outputs := some { Outputs.ok with rf := true } }

/-- 41_frame_codec.md R122 to R125, 43_catalog_demux.md R160, 60_exceptions.md R206: the status DECODE and every
PARSE end with on an input that is no reply frame, the tests in order. -/
def Obligations.FrameChecksInOrder : Prop :=
  ∀ (i : Instr) (s : State), ((∃ ent, i = .decode ent) ∨ ∃ e, i = parseOf e) →
    let ends : Status → Prop := fun st => exec i s = .next { s with outputs := some (Outputs.cleared st) }
    let n := s.ports.din.length
    (tooLongFor s.cfg n → ends .tooLong) ∧
    (fits s.cfg n → n = 0 → ends .empty) ∧
    (fits s.cfg n → 1 ≤ n → n ≤ 6 → ends .truncated) ∧
    (∀ pre x, fits s.cfg n → 7 ≤ n → s.ports.din = pre ++ [x] → x ≠ xorAll pre → ends .checksumMismatch) ∧
    (∀ pre L, fits s.cfg n → 7 ≤ n → s.ports.din = pre ++ [xorAll pre] → s.ports.din[4]? = some L →
      (L.toNat < 2 ∨ n ≠ L.toNat + 6) → ends .lengthMismatch)

/-- 41_frame_codec.md R122, R127, R128: DECODE of a reply frame, with any reply header and command byte, gives its
length byte, command byte, opcode and reply data. -/
def Obligations.DecodeSplitsReply : Prop :=
  ∀ (ent : BitVec 4) (s : State) (h : Bytes) (ctl opc : Byte) (data : Bytes), HoldsReply s h ctl opc data →
    decode (reqWord ent 0x5) = .ok (.decode ent) ∧
    exec (.decode ent) s = .next { s with outputs := some (replyOutputs ctl opc data) }

/-- 41_frame_codec.md R123 and 30_encoding.md R68: DECODE ends with OK on the reply frames no longer than MAX_LEN
and on nothing else. -/
def Obligations.DecodeAcceptsExactlyReplyFrames : Prop :=
  ∀ (ent : BitVec 4) (s : State),
    (∃ o : Outputs, exec (.decode ent) s = .next { s with outputs := some o } ∧ o.st = .ok) ↔
      ∃ h ctl opc data, HoldsReply s h ctl opc data

/-- 41_frame_codec.md R129: a body whose length byte counts the rest of it comes back from ENCODE through LOOP and
DECODE, when the frame ENCODE makes of it is no longer than MAX_LEN. -/
def Obligations.LoopbackRoundTrip : Prop :=
  ∀ (ent ent' : BitVec 4) (s : State) (L cmd opc : Byte) (params : Bytes), s.ports.hdr = hdrFixed →
    s.ports.din = [L, cmd, opc] ++ params → L.toNat = params.length + 2 → fits s.cfg (params.length + 9) →
    ∃ f : Bytes, exec (.encode ent) s = .next { s with outputs := some { Outputs.ok with dout := f } } ∧
      exec (.decode ent') (s.withDin (loopFrame f)) = .next { s.withDin (loopFrame f) with
        outputs := some { Outputs.ok with len := L, ctl := cmd, opc := opc, dout := params } }

/-- 41_frame_codec.md R130: a request frame BUILD makes does not decode as a reply. -/
def Obligations.NoDirectRoundTrip : Prop :=
  ∀ (ent : BitVec 4) (e : Entry) (s : State), s.cfg.admitted = true →
    ∃ f : Bytes, exec (buildOf e) s = .next { s with outputs := some { Outputs.ok with dout := f } } ∧
      exec (.decode ent) (s.withDin f) =
        .next { s.withDin f with outputs := some (Outputs.cleared .lengthMismatch) }

/-- 41_frame_codec.md R131: the source's worked reply, with its checksum 0xA3 and with any other last byte. -/
def Obligations.WorkedReplyDecodes : Prop :=
  ∀ (ent : BitVec 4) (s : State) (x : Byte), s.cfg.admitted = true →
    s.ports.din = [0xA6, 0x01, 0x00, 0x00, 0x05, 0x01, 0x02, 0x03, 0x04, 0x05, x] →
    (x = 0xA3 → exec (.decode ent) s = .next { s with outputs := some { Outputs.ok with
      opc := 0x02, dout := [0x03, 0x04, 0x05], len := 0x05, ctl := 0x01 } }) ∧
    (x ≠ 0xA3 → ∃ o : Outputs, exec (.decode ent) s = .next { s with outputs := some o } ∧
      o.st = .checksumMismatch ∧ o.cls = .checksumFailed)

/-! ### Opcode-payload mux (42_catalog_mux.md) -/

/-- 42_catalog_mux.md R147, R149, R151, R153, R155 to R158: BUILD of each get entry, whatever P0 and P1 hold. -/
def Obligations.BuildGetFrames : Prop :=
  ∀ s : State, ∀ row ∈ ([(.buildPwrGet, 0x06, s.cfg.opPwrGet), (.buildSrcGet, 0x26, s.cfg.opSrcGet),
      (.buildVolGet, 0x46, s.cfg.opVolGet), (.buildPfmtGet, 0x66, s.cfg.opPfmtGet),
      (.buildVidGet, 0x86, s.cfg.opVidGet), (.buildTempGet, 0x96, s.cfg.opTempGet),
      (.buildPipGet, 0xA6, s.cfg.opPipGet), (.buildSerGet, 0xB6, s.cfg.opSerGet)] : List (Instr × Byte × Byte)),
    decode row.2.1 = .ok row.1 ∧
    exec row.1 s = .next { s with outputs := some { Outputs.ok with
      dout := [0xA6, 0x01, 0x00, 0x00, 0x00, 0x03, 0x01, row.2.2, 0x00, 0xA5 ^^^ row.2.2] } }

/-- 42_catalog_mux.md R148, R152, R154: BUILD of each simple-set entry, for every P0, whatever P1 holds. -/
def Obligations.BuildSimpleSetFrames : Prop :=
  ∀ s : State, ∀ row ∈ ([(.buildPwrSet, 0x16, s.cfg.opPwrSet), (.buildVolSet, 0x56, s.cfg.opVolSet),
      (.buildPfmtSet, 0x76, s.cfg.opPfmtSet)] : List (Instr × Byte × Byte)),
    decode row.2.1 = .ok row.1 ∧
    exec row.1 s = .next { s with outputs := some { Outputs.ok with
      dout := [0xA6, 0x01, 0x00, 0x00, 0x00, 0x04, 0x01, row.2.2, s.ports.p0, 0x00,
        0xA2 ^^^ row.2.2 ^^^ s.ports.p0] } }

/-- 42_catalog_mux.md R150: BUILD.SRC_SET, for every P0 and P1 and every configuration. -/
def Obligations.BuildSourceSetFrame : Prop :=
  decode 0x36 = .ok .buildSrcSet ∧ ∀ s : State,
    exec .buildSrcSet s = .next { s with outputs := some { Outputs.ok with
      dout := [0xA6, 0x01, 0x00, 0x00, 0x00, 0x07, 0x01, 0xAC, s.ports.p0, s.ports.p1, 0x01, 0x00, 0x00,
        0x0C ^^^ s.ports.p0 ^^^ s.ports.p1] } }

/-- 30_encoding.md R67, with 41_frame_codec.md R120 and R121: every request frame begins with the fixed header,
its length byte counts it (L + 7, with L 3, 4 or 7 by shape), it verifies, and it is the frame ENCODE makes of its
own body. -/
def Obligations.BuiltFrameIsEncodedBody : Prop :=
  ∀ (ent ent' : BitVec 4) (e : Entry) (s : State), s.cfg.admitted = true →
    ∃ (f : Bytes) (L : Byte), exec (buildOf e) s = .next { s with outputs := some { Outputs.ok with dout := f } } ∧
      f.take 5 = [0xA6, 0x01, 0x00, 0x00, 0x00] ∧ f[5]? = some L ∧ f.length = L.toNat + 7 ∧
      L.toNat = (if e = .srcSet then 7 else if e ∈ [Entry.pwrSet, .volSet, .pfmtSet] then 4 else 3) ∧
      exec (.verify ent) (s.withDin f) =
        .next { s.withDin f with outputs := some { Outputs.ok with rf := true } } ∧
      ∀ t : State, t.cfg = s.cfg → t.ports.hdr.toList = f.take 5 → t.ports.din = (f.drop 5).dropLast →
        exec (.encode ent') t = .next { t with outputs := some { Outputs.ok with dout := f } }

/-- 10_state.md R22: a host value wider than a byte reaches P0 and P1 only as its bits [7:0]. -/
def Obligations.HostValuesCutToByte : Prop :=
  ∀ (req : Byte) (v w : Nat) (hdr : Vector Byte 5) (din : Bytes),
    (Ports.drive req v w hdr din).p0.toNat = v % 256 ∧ (Ports.drive req v w hdr din).p1.toNat = w % 256

/-! ### Opcode-payload demux (43_catalog_demux.md) -/

/-- 43_catalog_demux.md R160, R163 with R166, R170, R172, R175, R176: PARSE of a get entry with one slot, on a
reply frame that passes the echo check and holds the byte its rule reads. -/
def Obligations.ParseSingleSlotGets : Prop :=
  ∀ (s : State) (h : Bytes) (ctl opc : Byte) (data : Bytes) (v : Byte), HoldsReply s h ctl opc data →
    ((s.cfg.echo.pwrGet = true → opc = s.cfg.opPwrGet) → fieldOf s.cfg.resp.pwr (opc :: data) = some v →
      exec .parsePwrGet s = .next { s with outputs := some { replyOutputs ctl opc data with
        fld := { Fields.cleared with pwr := v }, fv := 0x01 } }) ∧
    ((s.cfg.echo.volGet = true → opc = s.cfg.opVolGet) → fieldOf s.cfg.resp.vol (opc :: data) = some v →
      exec .parseVolGet s = .next { s with outputs := some { replyOutputs ctl opc data with
        fld := { Fields.cleared with vol := v }, fv := 0x04 } }) ∧
    ((s.cfg.echo.pfmtGet = true → opc = s.cfg.opPfmtGet) → fieldOf s.cfg.resp.pfmt (opc :: data) = some v →
      exec .parsePfmtGet s = .next { s with outputs := some { replyOutputs ctl opc data with
        fld := { Fields.cleared with pfmt := v }, fv := 0x08 } }) ∧
    ((s.cfg.echo.tempGet = true → opc = s.cfg.opTempGet) → fieldOf s.cfg.resp.temp (opc :: data) = some v →
      exec .parseTempGet s = .next { s with outputs := some { replyOutputs ctl opc data with
        fld := { Fields.cleared with temp := v }, fv := 0x20 } }) ∧
    ((s.cfg.echo.pipGet = true → opc = s.cfg.opPipGet) → fieldOf s.cfg.resp.pip (opc :: data) = some v →
      exec .parsePipGet s = .next { s with outputs := some { replyOutputs ctl opc data with
        fld := { Fields.cleared with pip := v }, fv := 0x40 } })

/-- 43_catalog_demux.md R160, R163 with R168, R174: PARSE of the source and of the video parameters. -/
def Obligations.ParseSourceAndVideoGets : Prop :=
  ∀ (s : State) (h : Bytes) (ctl opc : Byte) (data : Bytes) (u v w : Byte), HoldsReply s h ctl opc data →
    ((s.cfg.echo.srcGet = true → opc = s.cfg.opSrcGet) → fieldOf s.cfg.resp.srcT (opc :: data) = some u →
      fieldOf s.cfg.resp.srcN (opc :: data) = some v →
      exec .parseSrcGet s = .next { s with outputs := some { replyOutputs ctl opc data with
        fld := { Fields.cleared with srcT := u, srcN := v }, fv := 0x02 } }) ∧
    ((s.cfg.echo.vidGet = true → opc = s.cfg.opVidGet) → fieldOf s.cfg.resp.bri (opc :: data) = some u →
      fieldOf s.cfg.resp.con (opc :: data) = some v → fieldOf s.cfg.resp.shp (opc :: data) = some w →
      exec .parseVidGet s = .next { s with outputs := some { replyOutputs ctl opc data with
        fld := { Fields.cleared with bri := u, con := v, shp := w }, fv := 0x10 } })

/-- 43_catalog_demux.md R160, R163 with R177: PARSE of the serial number, 14 bytes in their slots' order. -/
def Obligations.ParseSerialNumberGet : Prop :=
  ∀ (s : State) (h : Bytes) (ctl opc : Byte) (data : Bytes) (v : Vector Byte 14), HoldsReply s h ctl opc data →
    (s.cfg.echo.serGet = true → opc = s.cfg.opSerGet) →
    (∀ i : Fin 14, fieldOf s.cfg.resp.ser[i] (opc :: data) = some v[i]) →
    exec .parseSerGet s = .next { s with outputs := some { replyOutputs ctl opc data with
      fld := { Fields.cleared with ser := v }, fv := 0x80 } }

/-- 43_catalog_demux.md R172: PARSE.PFMT_GET keeps the low two bits of the first data byte, which DOUT shows
unmasked; without a data byte it ends with PAYLOAD_SHORT. -/
def Obligations.PictureFormatIsLowTwoBits : Prop :=
  ∀ (s : State) (h : Bytes) (ctl opc : Byte) (data : Bytes), s.cfg.admitted = true → HoldsReply s h ctl opc data →
    (s.cfg.echo.pfmtGet = true → opc = s.cfg.opPfmtGet) →
    decode 0x67 = .ok .parsePfmtGet ∧
    (data = [] → exec .parsePfmtGet s = .next { s with outputs := some (Outputs.cleared .payloadShort) }) ∧
    (∀ d rest, data = d :: rest →
      ∃ o : Outputs, exec .parsePfmtGet s = .next { s with outputs := some o } ∧ o.st = .ok ∧ o.fv = 0x08 ∧
        o.dout = data ∧ o.fld.pfmt.toNat = d.toNat % 4)

/-- 43_catalog_demux.md R161: PARSE of a set entry is DECODE, with no field; on a reply frame of any opcode it ends
with OK. -/
def Obligations.ParseSetsWriteNoField : Prop :=
  ∀ s : State, ∀ row ∈ ([(.parsePwrSet, 0x17), (.parseSrcSet, 0x37), (.parseVolSet, 0x57), (.parsePfmtSet, 0x77)] :
      List (Instr × Byte)),
    decode row.2 = .ok row.1 ∧
    (∃ o : Outputs, exec row.1 s = .next { s with outputs := some o } ∧ o.fv = 0x00 ∧
      (∀ slot, o.fld.read slot = 0x00) ∧ ∀ ent, exec (.decode ent) s = .next { s with outputs := some o }) ∧
    ∀ (h : Bytes) (ctl opc : Byte) (data : Bytes), HoldsReply s h ctl opc data →
      exec row.1 s = .next { s with outputs := some (replyOutputs ctl opc data) }

/-- 43_catalog_demux.md R162, R179: with the echo bit set, a valid reply of another opcode ends with
UNEXPECTED_OPCODE, class OPCODE_MISMATCH, and no field, and the host's snapshot stays as it was. -/
def Obligations.WrongOpcodeIsUnexpected : Prop :=
  ∀ (s : State) (h : Bytes) (ctl opc : Byte) (data : Bytes), HoldsReply s h ctl opc data →
    ∀ row ∈ getRows s.cfg, row.echo = true → opc ≠ row.opcode →
      ∃ o : Outputs, exec row.parse s = .next { s with outputs := some o } ∧ o.st = .unexpectedOpcode ∧
        o.cls = .opcodeMismatch ∧ o.fv = 0x00 ∧ (∀ slot, o.fld.read slot = 0x00) ∧
        ∀ n : Snapshot, n.update o = n

/-- 43_catalog_demux.md R164: a reply with fewer data bytes than an index of the rule ends with PAYLOAD_SHORT and
writes no field. -/
def Obligations.ShortReplyIsPayloadShort : Prop :=
  ∀ (s : State) (h : Bytes) (ctl opc : Byte) (data : Bytes), HoldsReply s h ctl opc data →
    ∀ row ∈ getRows s.cfg, (row.echo = true → opc = row.opcode) → (∃ k ∈ row.indices, data.length < k) →
      exec row.parse s = .next { s with outputs := some (Outputs.cleared .payloadShort) }

/-- 43_catalog_demux.md R160, R162, R164: PARSE of a get entry ends with OK exactly when DIN holds a reply frame
no longer than MAX_LEN, with the entry's opcode if the echo bit is set, and every byte its rule reads. -/
def Obligations.ParseGetAcceptsExactly : Prop :=
  ∀ s : State, ∀ row ∈ getRows s.cfg,
    (∃ o : Outputs, exec row.parse s = .next { s with outputs := some o } ∧ o.st = .ok) ↔
      ∃ h ctl opc data, HoldsReply s h ctl opc data ∧ (row.echo = true → opc = row.opcode) ∧
        ∀ k ∈ row.indices, k ≤ data.length

/-- 43_catalog_demux.md R165: PARSE gives either every slot of the entry's group from its rule, with the group's
FV bit, or none with FV zero. -/
def Obligations.FieldsAllOrNothing : Prop :=
  ∀ (e : Entry) (s t : State) (o : Outputs), exec (parseOf e) s = .next t → t.outputs = some o →
    (o.fv = 0x00 ∧ ∀ slot, o.fld.read slot = 0x00) ∨
    (∃ g, entryGroup e = some g ∧ o.st = .ok ∧ o.fv = g.mask ∧
      (∀ slot : Slot, slot.group = g → ∃ r ∈ respRule s.cfg e, r.slot = slot ∧
        fieldOf ⟨r.index, r.mask⟩ (o.opc :: o.dout) = some (o.fld.read slot)) ∧
      (∀ slot : Slot, slot.group ≠ g → o.fld.read slot = 0x00))

/-- 43_catalog_demux.md R180: PARSE of each entry's own looped-back request, with the default rules. -/
def Obligations.LoopbackThroughParse : Prop :=
  ∀ (e : Entry) (s : State), s.cfg.admitted = true → s.cfg.resp = .specDefault →
    ∃ f : Bytes, exec (buildOf e) s = .next { s with outputs := some { Outputs.ok with dout := f } } ∧
      ∃ o : Outputs, exec (parseOf e) (s.withDin (loopFrame f)) =
          .next { s.withDin (loopFrame f) with outputs := some o } ∧
        (e ∈ [Entry.pwrGet, .volGet, .pfmtGet, .tempGet, .pipGet] →
          o.st = .ok ∧ o.dout = [0x00] ∧ some o.fv = (entryGroup e).map Group.mask ∧
            ∀ slot, o.fld.read slot = 0x00) ∧
        (e ∈ [Entry.srcGet, .vidGet, .serGet] → o.st = .payloadShort) ∧
        (e ∈ [Entry.pwrSet, .srcSet, .volSet, .pfmtSet] → o.st = .ok ∧ o.fv = 0x00)

/-- 43_catalog_demux.md R181 with 60_exceptions.md R218: a set of the power state answered by any valid
acknowledgement writes no field, and the get that follows, answered with data [v], gives v. -/
def Obligations.SetThenGetGivesValue : Prop :=
  ∀ (s : State) (p q : Ports) (rest : List HostEvent) (h h' : Bytes) (ctl ctl' opc v : Byte) (ack : Bytes),
    s.cfg.admitted = true → s.cfg.resp = .specDefault → h.length = 4 → h'.length = 4 → ack.length ≤ 253 →
    s.stream = exchange .pwrSet p (replyFrame h ctl opc ack) ++
      exchange .pwrGet q (replyFrame h' ctl' s.cfg.opPwrGet [v]) ++ rest →
    ∃ (t u : State) (o o' : Outputs), run 2 s = .next t ∧
      run 2 t = .next u ∧ t.outputs = some o ∧ u.outputs = some o' ∧
      o.st = .ok ∧ o.fv = 0x00 ∧ (∀ slot, o.fld.read slot = 0x00) ∧
      o'.st = .ok ∧ o'.fv = 0x01 ∧ o'.fld.pwr = v ∧ u.acc = s.acc ∧ u.stream = rest

/-- 60_exceptions.md R221: the host's snapshot changes only on a PARSE of a get entry that ended with OK. -/
def Obligations.SnapshotChangesOnlyOnOkGet : Prop :=
  ∀ (i : Instr) (s t : State) (o : Outputs) (n : Snapshot), exec i s = .next t → t.outputs = some o →
    n.update o ≠ n → o.st = .ok ∧ ∃ row ∈ getRows s.cfg, i = row.parse
end

