-- ==== Sys2Proof/Laws/State.lean ====
section
/-! SUPPORT. One lemma for each field and each named update of the state, the outputs and the fields. -/

namespace Sys2Proof.Machine

variable (s : State) (p : Ports) (rest : List HostEvent) (c : Config) (d : Bytes) (st : Status) (r : Reply)

@[simp] theorem accept_cfg : (accept p rest s).cfg = s.cfg := rfl
@[simp] theorem accept_acc : (accept p rest s).acc = s.acc := rfl
@[simp] theorem accept_ports : (accept p rest s).ports = p := rfl
@[simp] theorem accept_outputs : (accept p rest s).outputs = s.outputs := rfl
@[simp] theorem accept_stream : (accept p rest s).stream = rest := rfl

@[simp] theorem resetBlock_cfg : (resetBlock rest s).cfg = s.cfg := rfl
@[simp] theorem resetBlock_acc : (resetBlock rest s).acc = 0 := rfl
@[simp] theorem resetBlock_ports : (resetBlock rest s).ports = s.ports := rfl
@[simp] theorem resetBlock_outputs : (resetBlock rest s).outputs = none := rfl
@[simp] theorem resetBlock_stream : (resetBlock rest s).stream = rest := rfl

@[simp] theorem resetWith_cfg : (State.resetWith c).cfg = c := rfl
@[simp] theorem resetWith_acc : (State.resetWith c).acc = 0 := rfl
@[simp] theorem resetWith_outputs : (State.resetWith c).outputs = none := rfl
@[simp] theorem resetWith_stream : (State.resetWith c).stream = [] := rfl

@[simp] theorem withDin_cfg : (s.withDin d).cfg = s.cfg := rfl
@[simp] theorem withDin_acc : (s.withDin d).acc = s.acc := rfl
@[simp] theorem withDin_din : (s.withDin d).ports.din = d := rfl
@[simp] theorem withDin_hdr : (s.withDin d).ports.hdr = s.ports.hdr := rfl
@[simp] theorem withDin_p0 : (s.withDin d).ports.p0 = s.ports.p0 := rfl
@[simp] theorem withDin_p1 : (s.withDin d).ports.p1 = s.ports.p1 := rfl
@[simp] theorem withDin_outputs : (s.withDin d).outputs = s.outputs := rfl
@[simp] theorem withDin_stream : (s.withDin d).stream = s.stream := rfl

@[simp] theorem cleared_st : (Outputs.cleared st).st = st := rfl
@[simp] theorem cleared_cls : (Outputs.cleared st).cls = st.cls := rfl
@[simp] theorem cleared_rb : (Outputs.cleared st).rb = 0 := rfl
@[simp] theorem cleared_rf : (Outputs.cleared st).rf = false := rfl
@[simp] theorem cleared_dout : (Outputs.cleared st).dout = [] := rfl
@[simp] theorem cleared_opc : (Outputs.cleared st).opc = 0 := rfl
@[simp] theorem cleared_ctl : (Outputs.cleared st).ctl = 0 := rfl
@[simp] theorem cleared_len : (Outputs.cleared st).len = 0 := rfl
@[simp] theorem cleared_fld : (Outputs.cleared st).fld = Fields.cleared := rfl
@[simp] theorem cleared_fv : (Outputs.cleared st).fv = 0 := rfl

@[simp] theorem ok_st : Outputs.ok.st = .ok := rfl
@[simp] theorem ok_cls : Outputs.ok.cls = .success := rfl
@[simp] theorem ok_rb : Outputs.ok.rb = 0 := rfl
@[simp] theorem ok_rf : Outputs.ok.rf = false := rfl
@[simp] theorem ok_dout : Outputs.ok.dout = [] := rfl
@[simp] theorem ok_opc : Outputs.ok.opc = 0 := rfl
@[simp] theorem ok_ctl : Outputs.ok.ctl = 0 := rfl
@[simp] theorem ok_len : Outputs.ok.len = 0 := rfl
@[simp] theorem ok_fld : Outputs.ok.fld = Fields.cleared := rfl
@[simp] theorem ok_fv : Outputs.ok.fv = 0 := rfl

@[simp] theorem reply_outputs_st : r.outputs.st = .ok := rfl
@[simp] theorem reply_outputs_cls : r.outputs.cls = .success := rfl
@[simp] theorem reply_outputs_rb : r.outputs.rb = 0 := rfl
@[simp] theorem reply_outputs_rf : r.outputs.rf = false := rfl
@[simp] theorem reply_outputs_dout : r.outputs.dout = r.data := rfl
@[simp] theorem reply_outputs_opc : r.outputs.opc = r.opc := rfl
@[simp] theorem reply_outputs_ctl : r.outputs.ctl = r.ctl := rfl
@[simp] theorem reply_outputs_len : r.outputs.len = r.len := rfl
@[simp] theorem reply_outputs_fld : r.outputs.fld = Fields.cleared := rfl
@[simp] theorem reply_outputs_fv : r.outputs.fv = 0 := rfl

@[simp] theorem cleared_fields_pwr : Fields.cleared.pwr = 0 := rfl
@[simp] theorem cleared_fields_srcT : Fields.cleared.srcT = 0 := rfl
@[simp] theorem cleared_fields_srcN : Fields.cleared.srcN = 0 := rfl
@[simp] theorem cleared_fields_vol : Fields.cleared.vol = 0 := rfl
@[simp] theorem cleared_fields_pfmt : Fields.cleared.pfmt = 0 := rfl
@[simp] theorem cleared_fields_bri : Fields.cleared.bri = 0 := rfl
@[simp] theorem cleared_fields_con : Fields.cleared.con = 0 := rfl
@[simp] theorem cleared_fields_shp : Fields.cleared.shp = 0 := rfl
@[simp] theorem cleared_fields_temp : Fields.cleared.temp = 0 := rfl
@[simp] theorem cleared_fields_pip : Fields.cleared.pip = 0 := rfl
@[simp] theorem cleared_fields_ser : Fields.cleared.ser = Vector.replicate 14 0 := rfl

@[simp] theorem read_cleared (slot : Slot) : Fields.cleared.read slot = 0 := by
  cases slot <;> simp [Fields.read, Fields.cleared]

/-- Reading a slot after a write: the value written there, every other slot as before. -/
@[simp] theorem read_write (f : Fields) (a b : Slot) (v : Byte) :
    (f.write a v).read b = if a = b then v else f.read b := by
  cases a <;> cases b <;> simp [Fields.write, Fields.read, Vector.getElem_set, Fin.ext_iff]

/-- Two field records with equal slots are equal. -/
theorem fields_ext {f g : Fields} (h : ∀ slot, f.read slot = g.read slot) : f = g := by
  obtain ⟨a1, a2, a3, a4, a5, a6, a7, a8, a9, a10, a11⟩ := f
  obtain ⟨b1, b2, b3, b4, b5, b6, b7, b8, b9, b10, b11⟩ := g
  have hs : a11 = b11 := Vector.ext fun i hi => h (.ser ⟨i, hi⟩)
  have h1 : a1 = b1 := h .pwr
  have h2 : a2 = b2 := h .srcT
  have h3 : a3 = b3 := h .srcN
  have h4 : a4 = b4 := h .vol
  have h5 : a5 = b5 := h .pfmt
  have h6 : a6 = b6 := h .bri
  have h7 : a7 = b7 := h .con
  have h8 : a8 = b8 := h .shp
  have h9 : a9 = b9 := h .temp
  have h10 : a10 = b10 := h .pip
  subst hs h1 h2 h3 h4 h5 h6 h7 h8 h9 h10
  rfl

end Sys2Proof.Machine
end

