-- ==== Sys2Proof/Laws/Ops.lean ====
section
/-! SUPPORT. For each shared operation, what it can do, said once. -/

namespace Sys2Proof.Machine

theorem exceedsMax_eq_false_iff (c : Config) (n : Nat) : exceedsMax c n = false ↔ fits c n := by
  unfold exceedsMax fits
  cases c.maxLen <;> simp

theorem exceedsMax_iff (c : Config) (n : Nat) : exceedsMax c n = true ↔ tooLongFor c n := by
  unfold exceedsMax tooLongFor
  cases c.maxLen <;> simp

theorem fits_of_admitted {c : Config} {n : Nat} (h : c.admitted = true) (hn : n ≤ 261) : fits c n := by
  intro m hm
  simp [Config.admitted, Config.maxLenOk, hm] at h
  omega

@[simp] theorem xorFold_nil : xorFold [] = 0 := rfl

/-- The second equation of 40_checksum.md R100. -/
theorem xorFold_concat (s : Bytes) (b : Byte) : xorFold (s ++ [b]) = xorFold s ^^^ b := by
  simp [xorFold]

theorem foldl_xor (s : Bytes) (a : Byte) : s.foldl (fun a b => a ^^^ b) a = a ^^^ xorAll s := by
  induction s generalizing a with
  | nil => simp [xorAll]
  | cons b s ih => simp [xorAll, ih, BitVec.xor_assoc]

/-- The fold from the back is the fold from the front. -/
theorem xorFold_eq_xorAll (s : Bytes) : xorFold s = xorAll s := by
  simp [xorFold, foldl_xor]

theorem slice_to_last (s : Bytes) : slice s 0 (s.length - 1) = s.dropLast := by
  simp [slice, List.dropLast_eq_take]

theorem slotChecksum_eq (s : Bytes) : slotChecksum s = xorAll s.dropLast := by
  cases s with
  | nil => rfl
  | cons b s => simp only [slotChecksum, slice_to_last, xorFold_eq_xorAll]; simp

@[simp] theorem verifies_nil : verifies [] = false := rfl

theorem verifies_concat (s : Bytes) (x : Byte) : verifies (s ++ [x]) = decide (xorAll s = x) := by
  simp [verifies, slice, byteAt, xorFold_eq_xorAll]

/-- A sequence verifies exactly when it is some bytes followed by their fold. -/
theorem verifies_iff (s : Bytes) : verifies s = true ↔ ∃ pre, s = pre ++ [xorAll pre] := by
  constructor
  · intro h
    rcases List.eq_nil_or_concat s with rfl | ⟨pre, x, rfl⟩
    · simp at h
    · rw [List.concat_eq_append, verifies_concat, decide_eq_true_eq] at h
      exact ⟨pre, by simp [h]⟩
  · rintro ⟨pre, rfl⟩
    simp [verifies_concat]

theorem withChecksum_eq (pre : Bytes) : withChecksum pre = pre ++ [xorAll pre] := by
  simp [withChecksum, xorFold_eq_xorAll]

/-- `raise` answers a next state, and only the outputs differ from before. -/
theorem raise_eq_next_iff (st : Status) (s t : State) :
    raise st s = .next t ↔ t = { s with outputs := some (Outputs.cleared st) } := by
  simp [raise, eq_comm]

/-- `complete` answers a next state, and only the outputs differ from before. -/
theorem complete_eq_next_iff (o : Outputs) (s t : State) :
    complete o s = .next t ↔ t = { s with outputs := some o } := by
  simp [complete, eq_comm]

/-- When DCORE gives a reply, and which one. -/
theorem dcore_eq_ok_iff (c : Config) (d : Bytes) (r : Reply) :
    dcore c d = .ok r ↔
      fits c d.length ∧ verifies d = true ∧ 2 ≤ (byteAt d 4).toNat ∧ d.length = (byteAt d 4).toNat + 6 ∧
        r = ⟨byteAt d 4, byteAt d 5, byteAt d 6, slice d 7 (d.length - 1)⟩ := by
  unfold dcore
  rw [← exceedsMax_eq_false_iff]
  split_ifs with h1 h2 h3 h4 h5
  · simp [h1]
  · simp; omega
  · simp; omega
  · simp at h4; simp [h4]
  · simp; omega
  · simp at h1 h4
    have h6 : 2 ≤ (byteAt d 4).toNat ∧ d.length = (byteAt d 4).toNat + 6 := by omega
    constructor
    · intro h
      exact ⟨by simpa using h1, h4, h6.1, h6.2, (Except.ok.inj h).symm⟩
    · rintro ⟨-, -, -, -, rfl⟩
      rfl

/-- When DCORE raises, and which status, the tests in order (60_exceptions.md R206). -/
theorem dcore_eq_error_iff (c : Config) (d : Bytes) (st : Status) :
    dcore c d = .error st ↔
      (tooLongFor c d.length ∧ st = .tooLong) ∨
      (fits c d.length ∧ d.length = 0 ∧ st = .empty) ∨
      (fits c d.length ∧ 1 ≤ d.length ∧ d.length ≤ 6 ∧ st = .truncated) ∨
      (fits c d.length ∧ 7 ≤ d.length ∧ verifies d = false ∧ st = .checksumMismatch) ∨
      (fits c d.length ∧ 7 ≤ d.length ∧ verifies d = true ∧
        ((byteAt d 4).toNat < 2 ∨ d.length ≠ (byteAt d 4).toNat + 6) ∧ st = .lengthMismatch) := by
  unfold dcore
  rw [← exceedsMax_eq_false_iff, ← exceedsMax_iff]
  split_ifs with h1 h2 h3 h4 h5
  · simp [h1, eq_comm (b := st)]
  · rw [h2] at h1 ⊢
    simp [h1, eq_comm (b := st)]
  · have : ¬ 7 ≤ d.length := by omega
    have h6 : 1 ≤ d.length ∧ d.length ≤ 6 := by omega
    simp [h1, h2, h6, this, eq_comm (b := st)]
  · have h7 : 7 ≤ d.length := by omega
    have h6 : ¬ d.length ≤ 6 := by omega
    simp only [Bool.not_eq_true'] at h4
    simp [h1, h2, h6, h7, h4, eq_comm (b := st)]
  · have h7 : 7 ≤ d.length := by omega
    have h6 : ¬ d.length ≤ 6 := by omega
    simp only [Bool.not_eq_true', Bool.not_eq_false] at h4
    simp only [h1, h2, h6, h7, h4, h5, Except.error.injEq, eq_comm (b := st)]
    simp
  · have h7 : 7 ≤ d.length := by omega
    have h6 : ¬ d.length ≤ 6 := by omega
    simp only [Bool.not_eq_true', Bool.not_eq_false] at h4
    simp only [h1, h2, h6, h7, h4, h5]
    simp

theorem anyOutside_eq_false_iff (rules : List SlotRule) (region : Bytes) :
    anyOutside rules region = false ↔ ∀ r ∈ rules, r.index < region.length := by
  simp [anyOutside]

/-- BUILD answers a next state: the request frame on DOUT, everything else cleared or unchanged. -/
theorem buildEntry_eq (e : Entry) (s : State) :
    buildEntry e s =
      .next { s with outputs := some { Outputs.ok with dout := requestFrame s.cfg e s.ports.p0 s.ports.p1 } } :=
  rfl

/-- PARSE of a get entry answers a next state, in one of four ways. -/
theorem parseGet_cases (e : Entry) (g : Group) (s : State) :
    (∃ st, dcore s.cfg s.ports.din = .error st ∧ parseGet e g s = raise st s) ∨
    (∃ r, dcore s.cfg s.ports.din = .ok r ∧ echoBit s.cfg e = true ∧ r.opc ≠ wop s.cfg e ∧
      parseGet e g s = raise .unexpectedOpcode s) ∨
    (∃ r, dcore s.cfg s.ports.din = .ok r ∧ (echoBit s.cfg e = true → r.opc = wop s.cfg e) ∧
      anyOutside (respRule s.cfg e) r.region = true ∧ parseGet e g s = raise .payloadShort s) ∨
    (∃ r, dcore s.cfg s.ports.din = .ok r ∧ (echoBit s.cfg e = true → r.opc = wop s.cfg e) ∧
      anyOutside (respRule s.cfg e) r.region = false ∧
      parseGet e g s =
        complete { r.outputs with fld := extractFields (respRule s.cfg e) r.region, fv := g.mask } s) := by
  unfold parseGet
  split
  next st h => exact .inl ⟨st, h, rfl⟩
  next r h =>
    split_ifs with h1 h2
    · simp at h1
      exact .inr (.inl ⟨r, h, h1.1, h1.2, rfl⟩)
    · simp at h1
      exact .inr (.inr (.inl ⟨r, h, h1, h2, rfl⟩))
    · simp at h1 h2
      exact .inr (.inr (.inr ⟨r, h, h1, h2, rfl⟩))

/-- PARSE of a set entry answers a next state, in one of two ways. -/
theorem parseSet_cases (s : State) :
    (∃ st, dcore s.cfg s.ports.din = .error st ∧ parseSet s = raise st s) ∨
    (∃ r, dcore s.cfg s.ports.din = .ok r ∧ parseSet s = complete r.outputs s) := by
  unfold parseSet
  split
  next st h => exact .inl ⟨st, h, rfl⟩
  next r h => exact .inr ⟨r, h, rfl⟩

/-- Writing by a list of rules leaves every slot that no rule writes. -/
theorem foldl_write_read_other (rules : List SlotRule) (region : Bytes) (slot : Slot) (f : Fields)
    (h : ∀ r ∈ rules, r.slot ≠ slot) :
    (rules.foldl (fun f r => f.write r.slot (byteAt region r.index &&& r.mask)) f).read slot = f.read slot := by
  induction rules generalizing f with
  | nil => rfl
  | cons r rules ih =>
    rw [List.foldl_cons, ih _ fun r hr => h r (List.mem_cons_of_mem _ hr)]
    simp [h r List.mem_cons_self]

/-- What `extractFields` leaves in a slot no rule writes: 0. -/
theorem extractFields_read_other (rules : List SlotRule) (region : Bytes) (slot : Slot)
    (h : ∀ r ∈ rules, r.slot ≠ slot) : (extractFields rules region).read slot = 0 := by
  simp [extractFields, foldl_write_read_other _ _ _ _ h]

/-- What `extractFields` leaves in a slot one rule writes: the byte at its index, masked. -/
theorem extractFields_read_of_mem (rules : List SlotRule) (region : Bytes)
    (hn : (rules.map SlotRule.slot).Nodup) (r : SlotRule) (hr : r ∈ rules) :
    (extractFields rules region).read r.slot = byteAt region r.index &&& r.mask := by
  unfold extractFields
  generalize Fields.cleared = f
  induction rules generalizing f with
  | nil => simp at hr
  | cons q rules ih =>
    rw [List.map_cons, List.nodup_cons] at hn
    rcases List.mem_cons.mp hr with rfl | hr
    · rw [List.foldl_cons, foldl_write_read_other]
      · simp
      · intro q hq hs
        exact hn.1 (List.mem_map.mpr ⟨q, hq, hs⟩)
    · exact ih hn.2 hr _

/-- The slots a response rule writes are those of the entry's group (43_catalog_demux.md R163). -/
theorem respRule_group (c : Config) (e : Entry) (r : SlotRule) (h : r ∈ respRule c e) :
    entryGroup e = some r.slot.group := by
  cases e
  case serGet =>
    simp only [respRule, slotRule, List.mem_map] at h
    obtain ⟨i, -, rfl⟩ := h
    rfl
  all_goals
    simp only [respRule, slotRule, List.mem_cons, List.not_mem_nil, or_false] at h
  all_goals
    first
      | (subst h; rfl)
      | (rcases h with rfl | rfl <;> rfl)
      | (rcases h with rfl | rfl | rfl <;> rfl)

/-- No response rule writes a slot twice. -/
theorem respRule_slots_nodup (c : Config) (e : Entry) : ((respRule c e).map SlotRule.slot).Nodup := by
  cases e
  case serGet =>
    simp only [respRule, slotRule, List.map_map, Function.comp_def]
    decide
  all_goals simp [respRule, slotRule]

theorem readOutputs_eq_ok_iff (s : State) (o : Outputs) : readOutputs s = .ok o ↔ s.outputs = some o := by
  unfold readOutputs
  cases s.outputs <;> simp

end Sys2Proof.Machine
end

