-- ==== Sys2Proof/Laws/Frames.lean ====
section
/-! SUPPORT. The decoder on reply frames: what DCORE gives on one, and that it accepts nothing else. -/

namespace Sys2Proof.Machine

theorem replyFrame_length (h : Bytes) (ctl opc : Byte) (data : Bytes) (hh : h.length = 4) :
    (replyFrame h ctl opc data).length = data.length + 8 := by
  simp [replyFrame, hh]; omega

/-- DCORE of a reply frame no longer than MAX_LEN gives its contents. -/
theorem dcore_replyFrame (c : Config) (h : Bytes) (ctl opc : Byte) (data : Bytes) (hh : h.length = 4)
    (hd : data.length ≤ 253) (hf : fits c (data.length + 8)) :
    dcore c (replyFrame h ctl opc data) = .ok ⟨BitVec.ofNat 8 (data.length + 2), ctl, opc, data⟩ := by
  have hlen := replyFrame_length h ctl opc data hh
  have hL : (BitVec.ofNat 8 (data.length + 2)).toNat = data.length + 2 := by
    simp only [BitVec.toNat_ofNat]; omega
  obtain ⟨a, b, c', d, rfl⟩ : ∃ a b c d, h = [a, b, c, d] := by
    match h, hh with
    | [a, b, c, d], _ => exact ⟨a, b, c, d, rfl⟩
  have h4 : byteAt (replyFrame [a, b, c', d] ctl opc data) 4 = BitVec.ofNat 8 (data.length + 2) := by
    simp [replyFrame, byteAt]
  have h5 : byteAt (replyFrame [a, b, c', d] ctl opc data) 5 = ctl := by simp [replyFrame, byteAt]
  have h6 : byteAt (replyFrame [a, b, c', d] ctl opc data) 6 = opc := by simp [replyFrame, byteAt]
  have h7 : slice (replyFrame [a, b, c', d] ctl opc data) 7 (data.length + 7) = data := by
    simp [replyFrame, slice]
  have hv : verifies (replyFrame [a, b, c', d] ctl opc data) = true :=
    (verifies_iff _).mpr ⟨_, rfl⟩
  rw [dcore_eq_ok_iff, h4, h5, h6, hlen, hL]
  refine ⟨hf, hv, by omega, by omega, ?_⟩
  rw [show data.length + 8 - 1 = data.length + 7 from rfl, h7]

/-- A reply DCORE gives stands in a reply frame on DIN. -/
theorem replyFrame_of_dcore {c : Config} {d : Bytes} {r : Reply} (hr : dcore c d = .ok r) :
    ∃ h, h.length = 4 ∧ r.data.length ≤ 253 ∧ fits c (r.data.length + 8) ∧
      r.len = BitVec.ofNat 8 (r.data.length + 2) ∧ d = replyFrame h r.ctl r.opc r.data := by
  obtain ⟨hf, hv, h2, hn, rfl⟩ := (dcore_eq_ok_iff c d r).mp hr
  obtain ⟨pre, rfl⟩ := (verifies_iff d).mp hv
  have hlt := (byteAt (pre ++ [xorAll pre]) 4).isLt
  generalize hL : byteAt (pre ++ [xorAll pre]) 4 = L at *
  have hpre : pre.length = L.toNat + 5 := by simpa using hn
  match pre, hpre with
  | a :: b :: c' :: e :: l :: ctl :: opc :: data, hpre =>
    have hl : l = L := by simpa [byteAt] using hL
    have hdata : data.length + 2 = L.toNat := by simp at hpre; omega
    have hs : slice (a :: b :: c' :: e :: l :: ctl :: opc :: data ++
        [xorAll (a :: b :: c' :: e :: l :: ctl :: opc :: data)]) 7
        ((a :: b :: c' :: e :: l :: ctl :: opc :: data ++
        [xorAll (a :: b :: c' :: e :: l :: ctl :: opc :: data)]).length - 1) = data := by
      simp [slice]
    simp only [hs]
    have hLn : L = BitVec.ofNat 8 (data.length + 2) := by rw [hdata]; simp
    refine ⟨[a, b, c', e], rfl, by omega, ?_, hLn, ?_⟩
    · have : data.length + 8 = (a :: b :: c' :: e :: l :: ctl :: opc :: data ++
        [xorAll (a :: b :: c' :: e :: l :: ctl :: opc :: data)]).length := by simp
      rw [this]; exact hf
    · simp [replyFrame, byteAt, hl, ← hLn]
  | [], hpre => simp at hpre
  | [_], hpre => simp at hpre
  | [_, _], hpre => simp at hpre
  | [_, _, _], hpre => simp at hpre
  | [_, _, _, _], hpre => simp at hpre
  | [_, _, _, _, _], hpre => simp at hpre; omega
  | [_, _, _, _, _, _], hpre => simp at hpre; omega

end Sys2Proof.Machine
end

