-- ==== Sys2Proof/Laws/PerInstr.lean ====
section
/-! SUPPORT. What holds of every instruction as syntax, one lemma per constructor. -/

/-- The request word of an instruction decodes to that instruction. -/
def Sys2Proof.Laws.RequestWord.Statement (i : Sys2Proof.Instr) : Prop :=
  Sys2Proof.decode (Sys2Proof.encode i) = .ok i

namespace Sys2Proof.Laws.RequestWord

theorem xfold (ent : BitVec 4) : Statement (.xfold ent) := by
  unfold Statement
  revert ent
  decide

theorem csum (ent : BitVec 4) : Statement (.csum ent) := by
  unfold Statement
  revert ent
  decide

theorem verify (ent : BitVec 4) : Statement (.verify ent) := by
  unfold Statement
  revert ent
  decide

theorem encode (ent : BitVec 4) : Statement (.encode ent) := by
  unfold Statement
  revert ent
  decide

theorem decode (ent : BitVec 4) : Statement (.decode ent) := by
  unfold Statement
  revert ent
  decide

theorem aclr (ent : BitVec 4) : Statement (.aclr ent) := by
  unfold Statement
  revert ent
  decide

theorem afeed (ent : BitVec 4) : Statement (.afeed ent) := by
  unfold Statement
  revert ent
  decide

theorem buildPwrGet : Statement .buildPwrGet := rfl

theorem buildPwrSet : Statement .buildPwrSet := rfl

theorem buildSrcGet : Statement .buildSrcGet := rfl

theorem buildSrcSet : Statement .buildSrcSet := rfl

theorem buildVolGet : Statement .buildVolGet := rfl

theorem buildVolSet : Statement .buildVolSet := rfl

theorem buildPfmtGet : Statement .buildPfmtGet := rfl

theorem buildPfmtSet : Statement .buildPfmtSet := rfl

theorem buildVidGet : Statement .buildVidGet := rfl

theorem buildTempGet : Statement .buildTempGet := rfl

theorem buildPipGet : Statement .buildPipGet := rfl

theorem buildSerGet : Statement .buildSerGet := rfl

theorem parsePwrGet : Statement .parsePwrGet := rfl

theorem parsePwrSet : Statement .parsePwrSet := rfl

theorem parseSrcGet : Statement .parseSrcGet := rfl

theorem parseSrcSet : Statement .parseSrcSet := rfl

theorem parseVolGet : Statement .parseVolGet := rfl

theorem parseVolSet : Statement .parseVolSet := rfl

theorem parsePfmtGet : Statement .parsePfmtGet := rfl

theorem parsePfmtSet : Statement .parsePfmtSet := rfl

theorem parseVidGet : Statement .parseVidGet := rfl

theorem parseTempGet : Statement .parseTempGet := rfl

theorem parsePipGet : Statement .parsePipGet := rfl

theorem parseSerGet : Statement .parseSerGet := rfl

end Sys2Proof.Laws.RequestWord
end

