-- ==== Sys2Proof/Laws/Step.lean ====
section
/-! SUPPORT. What one step can be, and BUILD and PARSE by catalog entry. -/

namespace Sys2Proof.Machine

/-- Every instruction that is BUILD of an entry runs the mux for that entry. -/
theorem exec_buildOf (e : Entry) (s : State) : exec (buildOf e) s = buildEntry e s := by
  cases e <;> rfl

/-- Every instruction that is PARSE of an entry runs the demux for that entry. -/
theorem exec_parseOf (e : Entry) (s : State) : exec (parseOf e) s = parseEntry e s := by
  cases e <;> rfl

theorem allDistinct_iff (l : Bytes) : allDistinct l = true ↔ l.Pairwise (· ≠ ·) := by
  induction l with
  | nil => simp [allDistinct]
  | cons b l ih =>
    simp only [allDistinct, Bool.and_eq_true, Bool.not_eq_true', List.pairwise_cons, ih,
      ← Bool.not_eq_true, List.contains_iff_mem, and_congr_left_iff]
    intro _
    exact ⟨fun h a ha hb => h (hb ▸ ha), fun h hb => h b hb rfl⟩

/-- What one step can be: refused for one of three reasons, a reset, a transaction that runs an instruction, or
one whose request word is illegal. -/
theorem step_cases (s : State) :
    (s.cfg.admitted = false ∧ step s = .refused .configNotAdmitted) ∨
    (s.cfg.admitted = true ∧
      ((s.stream = [] ∧ step s = .refused .noTransaction) ∨
        (∃ p q more rest, s.stream = .together p q more :: rest ∧ step s = .refused .concurrentTransactions) ∨
        (∃ rest, s.stream = .reset :: rest ∧ step s = .next (resetBlock rest s)) ∨
        (∃ p rest i, s.stream = .present p :: rest ∧ decode p.req = .ok i ∧ step s = exec i (accept p rest s)) ∨
        (∃ p rest e, s.stream = .present p :: rest ∧ decode p.req = .error e ∧
          step s = raise (illegalStatus e) (accept p rest s)))) := by
  unfold step
  split
  next h => exact .inl ⟨h, rfl⟩
  next h =>
    refine .inr ⟨h, ?_⟩
    split
    next h => exact .inl ⟨h, rfl⟩
    next h => exact .inr (.inl ⟨_, _, _, _, h, rfl⟩)
    next h => exact .inr (.inr (.inl ⟨_, h, rfl⟩))
    next p rest h =>
      split
      next i hi => exact .inr (.inr (.inr (.inl ⟨_, _, _, h, hi, rfl⟩)))
      next e he => exact .inr (.inr (.inr (.inr ⟨_, _, _, h, he, rfl⟩)))

@[simp] theorem run_zero (s : State) : run 0 s = .next s := rfl

/-- A run takes its first step, then the rest. -/
theorem run_succ {s t : State} (k : Nat) (h : step s = .next t) : run (k + 1) s = run k t := by
  simp [run, h]

theorem core_run_next (M : Host.Core) (k : Nat) (s t : M.State) (h : M.step s = .next t) :
    M.run (k + 1) s = M.run k t := by
  simp [Host.Core.run, h]

theorem core_run_refused (M : Host.Core) (k : Nat) (s : M.State) (r : M.Refusal) (h : M.step s = .refused r) :
    M.run (k + 1) s = .refused r := by
  simp [Host.Core.run, h]

/-- `run` is the host interface's run of the machine. -/
theorem core_run_eq (k : Nat) (s : State) : Host.Core.run Sys2Proof.core k s = run k s := by
  induction k generalizing s with
  | zero => rfl
  | succ k ih =>
    cases h : step s with
    | next t => rw [run_succ k h, ← ih]; exact core_run_next Sys2Proof.core k s t h
    | fault r => cases r
    | refused r =>
      rw [show run (k + 1) s = .refused r by simp [run, h]]
      exact core_run_refused Sys2Proof.core k s r h

end Sys2Proof.Machine
end

