-- ==== Sys2Proof/Tests/Slice0.lean ====
section
/-! SUPPORT. Decode tests with words written out from 30_encoding.md, smoke tests of the well-formedness checks,
the spec's own test vectors (95_test_vectors.md, numbered as there, on CFG0), and a witness for every statement that
has hypotheses. -/

namespace Sys2Proof.Tests

open Sys2Proof Sys2Proof.Machine

/-! ### Decoding: a word written out bit by bit (REQ[7:4] = ENT, REQ[3:0] = OP) for every constructor -/

theorem test_decode_checksum_family :
    [0b00000001, 0b11110001, 0b00000010, 0b00000011, 0b00001000, 0b10101001].map (decodeTableWord 8) =
      [some (.xfold 0x0), some (.xfold 0xF), some (.csum 0x0), some (.verify 0x0), some (.aclr 0x0),
        some (.afeed 0xA)] := by decide

theorem test_decode_frame_codec_family :
    [0b00000100, 0b00000101, 0b01100101].map (decodeTableWord 8) =
      [some (.encode 0x0), some (.decode 0x0), some (.decode 0x6)] := by decide

theorem test_decode_mux_family :
    [0b00000110, 0b00010110, 0b00100110, 0b00110110, 0b01000110, 0b01010110, 0b01100110, 0b01110110, 0b10000110,
        0b10010110, 0b10100110, 0b10110110].map (decodeTableWord 8) =
      [some .buildPwrGet, some .buildPwrSet, some .buildSrcGet, some .buildSrcSet, some .buildVolGet,
        some .buildVolSet, some .buildPfmtGet, some .buildPfmtSet, some .buildVidGet, some .buildTempGet,
        some .buildPipGet, some .buildSerGet] := by
  decide

theorem test_decode_demux_family :
    [0b00000111, 0b00010111, 0b00100111, 0b00110111, 0b01000111, 0b01010111, 0b01100111, 0b01110111, 0b10000111,
        0b10010111, 0b10100111, 0b10110111].map (decodeTableWord 8) =
      [some .parsePwrGet, some .parsePwrSet, some .parseSrcGet, some .parseSrcSet, some .parseVolGet,
        some .parseVolSet, some .parsePfmtGet, some .parsePfmtSet, some .parseVidGet, some .parseTempGet,
        some .parsePipGet, some .parseSerGet] := by
  decide

theorem test_decode_reserved :
    decode 0b00000000 = .error .op ∧ decode 0b00111111 = .error .op ∧ decode 0b11000110 = .error .entry ∧
      decode 0b11110111 = .error .entry := by decide

/-- A table word of 16 bits is read by its request byte alone (log entry 12). -/
theorem test_decode_wide_table_word : decodeTableWord 16 0x0406 = some .buildPwrGet := by decide

/-! ### Smoke tests of the configuration checks (70_reset_and_hazards.md R233) -/

theorem test_cfg0_admitted : Config.cfg0.admitted = true := by decide

theorem test_equal_opcodes_refused :
    ({ Config.cfg0 with opVolGet := 0x44 } : Config).opcodesDistinct = false := by decide

theorem test_opcode_of_source_set_refused :
    ({ Config.cfg0 with opPipGet := 0xAC } : Config).opcodesDistinct = false := by decide

theorem test_short_max_len_refused : ({ Config.cfg0 with maxLen := some 260 } : Config).maxLenOk = false := by decide

theorem test_unbounded_max_len_admitted : ({ Config.cfg0 with maxLen := none } : Config).admitted = true := by decide

theorem test_other_picture_format_rule_refused :
    ({ Config.cfg0 with resp := { RespRules.specDefault with pfmt := ⟨1, 0x07⟩ } } : Config).pfmtRuleFixed = false := by
  decide

/-! ### The spec's test vectors, one step each -/

/-- A transaction about to be presented to CFG0, with ACC as given. -/
def presented (acc req p0 p1 : Byte) (hdr : Vector Byte 5) (din : Bytes) : State :=
  { State.reset with acc := acc, stream := [.present ⟨req, p0, p1, hdr, din⟩] }

/-- The outputs of the next step, if there is one. -/
def outs (s : State) : Option Outputs :=
  match step s with
  | .next t => t.outputs
  | .fault _ => none
  | .refused _ => none

/-- ACC after the next step, if there is one. -/
def accAfter (s : State) : Option Byte :=
  match step s with
  | .next t => some t.acc
  | .fault _ => none
  | .refused _ => none

/-- A transaction that reads DIN only. -/
def onDin (req : Byte) (din : Bytes) : State := presented 0 req 0 0 (Vector.replicate 5 0) din

/-- V4. -/
theorem test_xfold_v4 :
    (outs (onDin 0x01 [0xA6, 0x01, 0x00, 0x00, 0x05, 0x01, 0x02, 0x03, 0x04, 0x05])).map (·.rb) = some 0xA3 := by decide

/-- `n` zero bytes. -/
def zeroBytes (n : Nat) : Bytes := List.replicate n 0x00

@[simp] theorem zeroBytes_length (n : Nat) : (zeroBytes n).length = n := by simp [zeroBytes]

theorem zeroBytes_succ (n : Nat) : zeroBytes (n + 1) = zeroBytes n ++ [0x00] := List.replicate_succ'

/-- DIN holds `n` zero bytes, after reset. -/
def zeros (n : Nat) : State := State.reset.withDin (zeroBytes n)

theorem zeros_length (n : Nat) : (zeros n).ports.din.length = n := by simp [zeros]

theorem fits_reset {n : Nat} (h : n ≤ 261) : fits State.reset.cfg n := fits_of_admitted (by decide) h

theorem tooLong_reset {n : Nat} (h : 261 < n) : tooLongFor State.reset.cfg n := ⟨261, rfl, h⟩

/-- V7. -/
theorem test_xfold_v7_too_long :
    exec (.xfold 0x0) (zeros 262) = .next { zeros 262 with outputs := some (Outputs.cleared .tooLong) } := by
  have h : exceedsMax (zeros 262).cfg (zeros 262).ports.din.length = true :=
    (exceedsMax_iff _ _).mpr (tooLong_reset (by simp [zeros_length]))
  simp [exec, execXfold, h, raise]

/-- V8. -/
theorem test_csum_v8 :
    (outs (onDin 0x02 [0xA6, 0x01, 0x00, 0x00, 0x05, 0x01, 0x02, 0x03, 0x04, 0x05, 0x00])).map
        (·.rb) = some 0xA3 := by decide

/-- V9. -/
theorem test_csum_v9 :
    (outs (onDin 0x02 [0xA6, 0x01, 0x00, 0x00, 0x05, 0x01, 0x02, 0x03, 0x04, 0x05])).map (·.rb) = some 0xA6 := by decide

/-- V14. -/
theorem test_verify_v14 :
    (outs (onDin 0x03 [0xA6, 0x01, 0x00, 0x00, 0x05, 0x01, 0x02, 0x03, 0x04, 0x05, 0xA4])).map
        (fun o => (o.st, o.rf)) = some (.ok, false) := by decide

/-- V15. -/
theorem test_verify_v15_exchanged_bytes :
    (outs (onDin 0x03 [0xA6, 0x01, 0x00, 0x00, 0x05, 0x02, 0x01, 0x03, 0x04, 0x05, 0xA3])).map
        (·.rf) = some true := by decide

/-- V17. -/
theorem test_aclr_v17 :
    accAfter (presented 0x5A 0x08 0 0 hdrFixed []) = some 0x00 := by decide

/-- 40_checksum.md R105, its example. -/
theorem test_afeed_example :
    accAfter (presented 0xA7 0x09 0x03 0 hdrFixed []) = some 0xA4 ∧
      (outs (presented 0xA7 0x09 0x03 0 hdrFixed [])).map (·.rb) = some 0xA4 := by decide

/-- V20. -/
theorem test_afeed_v20 :
    accAfter (presented 0xBC 0x09 0xBC 0 hdrFixed []) = some 0x00 := by decide

/-- K1. -/
theorem test_encode_k1 :
    (outs (presented 0 0x04 0 0 hdrFixed [0x03, 0x01, 0x19, 0x00])).map (·.dout) =
      some [0xA6, 0x01, 0x00, 0x00, 0x00, 0x03, 0x01, 0x19, 0x00, 0xBC] := by decide

/-- K6. -/
theorem test_encode_k6_too_long :
    exec (.encode 0x0) (zeros 256) = .next { zeros 256 with outputs := some (Outputs.cleared .tooLong) } := by
  have h : exceedsMax (zeros 256).cfg ((zeros 256).ports.din.length + 6) = true :=
    (exceedsMax_iff _ _).mpr (tooLong_reset (by simp [zeros_length]))
  simp [exec, execEncode, h, raise]

/-- E1. -/
theorem test_decode_e1 :
    (outs (onDin 0x05 [0xA6, 0x01, 0x00, 0x00, 0x05, 0x01, 0x02, 0x03, 0x04, 0x05, 0xA3])).map
        (fun o => (o.opc, o.dout, o.len, o.ctl)) =
      some (0x02, [0x03, 0x04, 0x05], 0x05, 0x01) := by decide

/-- K10 and K13. -/
theorem test_decode_k10_k13 :
    (outs (onDin 0x05 [0xA6, 0x01, 0x00, 0x00, 0x01, 0x01, 0xA7])).map (·.st) = some .lengthMismatch ∧
      (outs (onDin 0x05 [0xA6, 0x01, 0x00, 0x00, 0x05, 0x01, 0x19, 0x02, 0xB8])).map
        (·.st) = some .lengthMismatch := by decide

/-- M1. -/
theorem test_build_pwr_get_m1 :
    (outs (presented 0 0x06 0x00 0x00 (Vector.replicate 5 0) [])).map (·.dout) =
      some [0xA6, 0x01, 0x00, 0x00, 0x00, 0x03, 0x01, 0x19, 0x00, 0xBC] := by decide

/-- M2. -/
theorem test_build_pwr_set_m2 :
    (outs (presented 0 0x16 0x02 0x00 (Vector.replicate 5 0) [])).map (·.dout) =
      some [0xA6, 0x01, 0x00, 0x00, 0x00, 0x04, 0x01, 0x18, 0x02, 0x00, 0xB8] := by decide

/-- M3. -/
theorem test_build_src_get_m3 :
    (outs (presented 0 0x26 0x00 0x00 (Vector.replicate 5 0) [])).map (·.dout) =
      some [0xA6, 0x01, 0x00, 0x00, 0x00, 0x03, 0x01, 0xAD, 0x00, 0x08] := by decide

/-- M4. -/
theorem test_build_src_set_m4 :
    (outs (presented 0 0x36 0x05 0x01 (Vector.replicate 5 0) [])).map (·.dout) =
      some [0xA6, 0x01, 0x00, 0x00, 0x00, 0x07, 0x01, 0xAC, 0x05, 0x01, 0x01, 0x00, 0x00, 0x08] := by decide

/-- M5. -/
theorem test_build_vol_get_m5 :
    (outs (presented 0 0x46 0x00 0x00 (Vector.replicate 5 0) [])).map (·.dout) =
      some [0xA6, 0x01, 0x00, 0x00, 0x00, 0x03, 0x01, 0x45, 0x00, 0xE0] := by decide

/-- M6. -/
theorem test_build_vol_set_m6 :
    (outs (presented 0 0x56 0x20 0x00 (Vector.replicate 5 0) [])).map (·.dout) =
      some [0xA6, 0x01, 0x00, 0x00, 0x00, 0x04, 0x01, 0x44, 0x20, 0x00, 0xC6] := by decide

/-- M7. -/
theorem test_build_pfmt_get_m7 :
    (outs (presented 0 0x66 0x00 0x00 (Vector.replicate 5 0) [])).map (·.dout) =
      some [0xA6, 0x01, 0x00, 0x00, 0x00, 0x03, 0x01, 0x3B, 0x00, 0x9E] := by decide

/-- M8. -/
theorem test_build_pfmt_set_m8 :
    (outs (presented 0 0x76 0x01 0x00 (Vector.replicate 5 0) [])).map (·.dout) =
      some [0xA6, 0x01, 0x00, 0x00, 0x00, 0x04, 0x01, 0x3A, 0x01, 0x00, 0x99] := by decide

/-- M9. -/
theorem test_build_vid_get_m9 :
    (outs (presented 0 0x86 0x00 0x00 (Vector.replicate 5 0) [])).map (·.dout) =
      some [0xA6, 0x01, 0x00, 0x00, 0x00, 0x03, 0x01, 0x33, 0x00, 0x96] := by decide

/-- M10. -/
theorem test_build_temp_get_m10 :
    (outs (presented 0 0x96 0x00 0x00 (Vector.replicate 5 0) [])).map (·.dout) =
      some [0xA6, 0x01, 0x00, 0x00, 0x00, 0x03, 0x01, 0x2F, 0x00, 0x8A] := by decide

/-- M11. -/
theorem test_build_pip_get_m11 :
    (outs (presented 0 0xA6 0x00 0x00 (Vector.replicate 5 0) [])).map (·.dout) =
      some [0xA6, 0x01, 0x00, 0x00, 0x00, 0x03, 0x01, 0x85, 0x00, 0x20] := by decide

/-- M12. -/
theorem test_build_ser_get_m12 :
    (outs (presented 0 0xB6 0x00 0x00 (Vector.replicate 5 0) [])).map (·.dout) =
      some [0xA6, 0x01, 0x00, 0x00, 0x00, 0x03, 0x01, 0x15, 0x00, 0xB0] := by decide

/-- X1. -/
theorem test_parse_pwr_get_x1 :
    (outs (onDin 0x07
        [0xA6, 0x01, 0x00, 0x00, 0x03, 0x01, 0x19, 0x02, 0xBE])).map
        (fun o => (o.fld.pwr, o.fv, o.opc, o.dout)) =
      some (0x02, 0x01, 0x19, [0x02]) := by decide

/-- X17. -/
theorem test_parse_pwr_set_x17 :
    (outs (onDin 0x17
        [0xA6, 0x01, 0x00, 0x00, 0x03, 0x01, 0x45, 0x02, 0xE2])).map
        (fun o => (o.st, o.fv, o.opc)) =
      some (.ok, 0x00, 0x45) := by decide

/-- X3. -/
theorem test_parse_src_get_x3 :
    (outs (onDin 0x27
        [0xA6, 0x01, 0x00, 0x00, 0x04, 0x01, 0xAD, 0x05, 0x01, 0x0B])).map
        (fun o => (o.fld.srcT, o.fld.srcN, o.fv)) =
      some (0x05, 0x01, 0x02) := by decide

/-- X16. -/
theorem test_parse_src_set_x16 :
    (outs (onDin 0x37
        [0xA6, 0x01, 0x00, 0x00, 0x02, 0x01, 0x00, 0xA4])).map
        (fun o => (o.st, o.fv, o.dout)) =
      some (.ok, 0x00, []) := by decide

/-- X5. -/
theorem test_parse_vol_get_x5 :
    (outs (onDin 0x47
        [0xA6, 0x01, 0x00, 0x00, 0x03, 0x01, 0x45, 0x20, 0xC0])).map
        (fun o => (o.fld.vol, o.fv)) =
      some (0x20, 0x04) := by decide

/-- X16. -/
theorem test_parse_vol_set_x16 :
    (outs (onDin 0x57
        [0xA6, 0x01, 0x00, 0x00, 0x02, 0x01, 0x00, 0xA4])).map
        (fun o => (o.st, o.fv)) =
      some (.ok, 0x00) := by decide

/-- X7. -/
theorem test_parse_pfmt_get_x7 :
    (outs (onDin 0x67
        [0xA6, 0x01, 0x00, 0x00, 0x03, 0x01, 0x3B, 0xFF, 0x61])).map
        (fun o => (o.fld.pfmt, o.fv, o.dout)) =
      some (0x03, 0x08, [0xFF]) := by decide

/-- X16. -/
theorem test_parse_pfmt_set_x16 :
    (outs (onDin 0x77
        [0xA6, 0x01, 0x00, 0x00, 0x02, 0x01, 0x00, 0xA4])).map
        (fun o => (o.st, o.fv)) =
      some (.ok, 0x00) := by decide

/-- X9. -/
theorem test_parse_vid_get_x9 :
    (outs (onDin 0x87
        [0xA6, 0x01, 0x00, 0x00, 0x06, 0x01, 0x33, 0x32, 0x40, 0x0A, 0x55, 0xBE])).map
        (fun o => (o.fld.bri, o.fld.con, o.fld.shp, o.fv, o.dout)) =
      some (0x32, 0x40, 0x0A, 0x10, [0x32, 0x40, 0x0A, 0x55]) := by decide

/-- X11. -/
theorem test_parse_temp_get_x11 :
    (outs (onDin 0x97
        [0xA6, 0x01, 0x00, 0x00, 0x03, 0x01, 0x2F, 0x24, 0xAE])).map
        (fun o => (o.fld.temp, o.fv)) =
      some (0x24, 0x20) := by decide

/-- X12. -/
theorem test_parse_pip_get_x12 :
    (outs (onDin 0xA7
        [0xA6, 0x01, 0x00, 0x00, 0x03, 0x01, 0x85, 0x05, 0x25])).map
        (fun o => (o.fld.pip, o.fv)) =
      some (0x05, 0x40) := by decide

/-- X13. -/
theorem test_parse_ser_get_x13 :
    (outs (onDin 0xB7
        [0xA6, 0x01, 0x00, 0x00, 0x10, 0x01, 0x15, 0x41, 0x42, 0x43, 0x44, 0x45, 0x46, 0x47, 0x48, 0x49, 0x4A, 0x4B, 0x4C, 0x4D, 0x4E,
          0xAC])).map
        (fun o => (o.fld.ser.toList, o.fv, o.len)) =
      some ([0x41, 0x42, 0x43, 0x44, 0x45, 0x46, 0x47, 0x48, 0x49, 0x4A, 0x4B, 0x4C, 0x4D,
        0x4E], 0x80, 0x10) := by decide

/-- X4. -/
theorem test_parse_src_get_x4_short :
    (outs (onDin 0x27 [0xA6, 0x01, 0x00, 0x00, 0x03, 0x01, 0xAD, 0x05, 0x0D])).map (fun o => (o.st, o.cls, o.fv)) =
      some (.payloadShort, .opcodeMismatch, 0x00) := by decide

/-- X14. -/
theorem test_parse_ser_get_x14_short :
    (outs (onDin 0xB7
        [0xA6, 0x01, 0x00, 0x00, 0x0F, 0x01, 0x15, 0x41, 0x42, 0x43, 0x44, 0x45, 0x46, 0x47, 0x48, 0x49, 0x4A, 0x4B, 0x4C, 0x4D,
          0xFD])).map (·.st) =
      some .payloadShort := by decide

/-- X20. -/
theorem test_parse_pwr_get_x20_echo_before_short :
    (outs (onDin 0x07 [0xA6, 0x01, 0x00, 0x00, 0x02, 0x01, 0x45, 0xE1])).map
        (·.st) = some .unexpectedOpcode := by decide

/-- Q3 and X25. -/
theorem test_illegal_requests_q3_x25 :
    (outs (onDin 0x3F [])).map (·.st) = some .illegalOp ∧ accAfter (presented 0x5A 0x3F 0 0 hdrFixed []) = some 0x5A ∧
      (outs (onDin 0xD7 [])).map (·.st) = some .illegalEntry := by decide

/-- a word placed by withFetchWord runs as the first transaction after reset (log entry 4). -/
theorem test_fetch_word_runs :
    (outs (State.reset.withFetchWord 8 0xB6)).map (·.dout) =
      some [0xA6, 0x01, 0x00, 0x00, 0x00, 0x03, 0x01, 0x15, 0x00, 0xB0] := by decide

/-- 60_exceptions.md R221 on X5. -/
theorem test_outputs_of_snapshot :
    (outs (onDin 0x47 [0xA6, 0x01, 0x00, 0x00, 0x03, 0x01, 0x45, 0x20, 0xC0])).map (fun o =>
        ((⟨0, 0, 0, 0, 0, 0, 0, 0, 0, Vector.replicate 14 0⟩ : Snapshot).update o).volume) = some 0x20 := by decide

/-! ### Witnesses: for each statement with hypotheses, a concrete state and operands that meet them, clause by
clause, at the ends of each clause's range (MAX_LEN is 261 here) -/

/-- DIN holds a reply frame, after reset. -/
def held (ctl opc : Byte) (data : Bytes) : State :=
  State.reset.withDin (replyFrame [0xA6, 0x01, 0x00, 0x00] ctl opc data)

theorem held_holds (ctl opc : Byte) (data : Bytes) (h : data.length ≤ 253) :
    HoldsReply (held ctl opc data) [0xA6, 0x01, 0x00, 0x00] ctl opc data :=
  ⟨rfl, h, fits_reset (by omega), rfl⟩

/-- The shortest and the longest reply. -/
theorem held_ends (ctl opc : Byte) :
    HoldsReply (held ctl opc []) [0xA6, 0x01, 0x00, 0x00] ctl opc [] ∧
      HoldsReply (held ctl opc (zeroBytes 253)) [0xA6, 0x01, 0x00, 0x00] ctl opc (zeroBytes 253) :=
  ⟨held_holds _ _ _ (by simp), held_holds _ _ _ (by simp)⟩

theorem xorAll_zeros (n : Nat) : xorAll (zeroBytes n) = 0x00 := by
  induction n with
  | zero => rfl
  | succ n ih =>
    rw [zeroBytes, List.replicate_succ, xorAll]
    exact (BitVec.zero_xor).trans ih

theorem test_witness_IgnoredEntNibbleChangesNothing :
    (0x1 : BitVec 4) ∈ ([0x1, 0x2, 0x3, 0x4, 0x5, 0x8, 0x9] : List (BitVec 4)) := by decide

theorem test_witness_ReservedOpEndsIllegalOp : ∀ w ∈ ([0x00, 0xF0, 0x0A, 0xFF] : List Byte),
    (onDin w []).cfg.admitted = true ∧ (onDin w []).stream = [.present ⟨w, 0, 0, Vector.replicate 5 0, []⟩] ∧
      ((reqOp w).toNat = 0 ∨ 10 ≤ (reqOp w).toNat) := by decide

theorem test_witness_ReservedEntryEndsIllegalEntry : ∀ w ∈ ([0xC6, 0xF6, 0xC7, 0xF7] : List Byte),
    (onDin w [0xA6]).cfg.admitted = true ∧
      (onDin w [0xA6]).stream = [.present ⟨w, 0, 0, Vector.replicate 5 0, [0xA6]⟩] ∧
      w ∈ ([0xC6, 0xD6, 0xE6, 0xF6, 0xC7, 0xD7, 0xE7, 0xF7] : List Byte) := by decide

theorem test_witness_StepRunsDecodedInstruction :
    (onDin 0x36 []).cfg.admitted = true ∧
      (onDin 0x36 []).stream = [.present ⟨0x36, 0, 0, Vector.replicate 5 0, []⟩] ∧
      decode 0x36 = .ok .buildSrcSet := by decide

/-- A host that presents two transactions at once, and one that presents three. -/
theorem test_witness_TogetherIsRefused : ∀ more ∈ [[], [Ports.undriven]],
    let s : State := { State.reset with stream := [.together Ports.undriven Ports.undriven more] }
    s.stream = .together Ports.undriven Ports.undriven more :: [] ∧ s.cfg.admitted = true := by decide

/-- Both sides: nothing presented, and one transaction presented. -/
theorem test_witness_NoStepWithoutTransaction :
    State.reset.cfg.admitted = true ∧ State.reset.stream = [] ∧
      (onDin 0x08 []).cfg.admitted = true ∧ (onDin 0x08 []).stream ≠ [] := by decide

/-- Both sides: a MAX_LEN of 260 and one of 261. -/
theorem test_witness_StepNeedsAdmittedConfig :
    step { onDin 0x08 [] with cfg := { Config.cfg0 with maxLen := some 260 } } = .refused .configNotAdmitted ∧
      (onDin 0x08 []).cfg.maxLen = some 261 ∧ ∃ t, step (onDin 0x08 []) = .next t :=
  ⟨rfl, rfl, _, rfl⟩

theorem test_witness_ResetClearsAcc :
    let s : State := { State.reset with acc := 0x5A, stream := [.reset] }
    s.cfg.admitted = true ∧ s.stream = .reset :: [] := by decide

theorem test_witness_StepKeepsInvariant :
    ∃ t, Inv (onDin 0x47 []) ∧ step (onDin 0x47 []) = .next t :=
  ⟨_, nofun, rfl⟩

theorem test_witness_StepKeepsConfigAndConsumes : ∃ t, step (onDin 0x47 []) = .next t := ⟨_, rfl⟩

theorem not_touchesAcc_verify (e : BitVec 4) : ¬ touchesAcc (.verify e) := by
  rintro ⟨_, h | h⟩ <;> cases h

theorem test_witness_OnlyAclrAfeedWriteAcc :
    ¬ touchesAcc (.verify 0x0) ∧ ∃ t, exec (.verify 0x0) State.reset = .next t :=
  ⟨not_touchesAcc_verify _, _, rfl⟩

/-- For an operation that does not touch ACC, and for one that does. -/
theorem test_witness_OutputsAreFunctionOfInputs :
    let t : State := { State.reset with acc := 0x5A, outputs := some (Outputs.cleared .empty) }
    let u : State := { State.reset with outputs := some (Outputs.cleared .empty) }
    State.reset.cfg = t.cfg ∧ State.reset.ports = t.ports ∧
      (touchesAcc (.verify 0x0) → State.reset.acc = t.acc) ∧
      State.reset.cfg = u.cfg ∧ State.reset.ports = u.ports ∧ touchesAcc (.afeed 0x0) ∧ State.reset.acc = u.acc :=
  ⟨rfl, rfl, fun h => absurd h (not_touchesAcc_verify _), rfl, rfl, ⟨0x0, .inr rfl⟩, rfl⟩

theorem test_witness_StatelessOperationsIdempotent :
    (¬ touchesAcc (.verify 0x0) ∧ ∃ t, exec (.verify 0x0) State.reset = .next t) ∧
      ∃ t u, exec (.afeed 0x0) State.reset = .next t ∧ exec (.afeed 0xF) t = .next u :=
  ⟨⟨not_touchesAcc_verify _, _, rfl⟩, _, _, rfl, rfl⟩

/-- The empty run, and one through a reset, an operation and an illegal request. -/
theorem test_witness_SerialisedStreamRunsToEnd :
    ∀ events ∈ [[], [HostEvent.reset, .present ⟨0x08, 0, 0, hdrFixed, []⟩, .present ⟨0x00, 0, 0, hdrFixed, []⟩]],
      let s : State := { State.reset with stream := events ++ [.reset] }
      s.cfg.admitted = true ∧ s.stream = events ++ [.reset] ∧ ∀ e ∈ events, e.serialised = true := by decide

theorem test_witness_FailureShowsOnlyStatus :
    ∃ t o, exec (.decode 0x0) State.reset = .next t ∧ t.outputs = some o ∧ o.st ≠ .ok :=
  ⟨_, _, rfl, rfl, by decide⟩

/-- One instruction for each clause. -/
theorem test_witness_StatusesByOperation :
    (∃ t o, exec (.encode 0x0) State.reset = .next t ∧ t.outputs = some o) ∧
    (∃ t o, exec (.afeed 0x0) State.reset = .next t ∧ t.outputs = some o) ∧
    (∃ t o, exec (buildOf .srcSet) State.reset = .next t ∧ t.outputs = some o) ∧
    (∃ t o, exec .parsePfmtSet State.reset = .next t ∧ t.outputs = some o) ∧
    ∀ row ∈ getRows State.reset.cfg, row.echo = true ∧
      ∃ t o, exec row.parse (held 0x01 0x00 []) = .next t ∧ t.outputs = some o ∧ o.st = .unexpectedOpcode := by
  refine ⟨⟨_, _, rfl, rfl⟩, ⟨_, _, rfl, rfl⟩, ⟨_, _, rfl, rfl⟩, ⟨_, _, rfl, rfl⟩, ?_⟩
  intro row hrow
  simp only [getRows, List.mem_cons, List.not_mem_nil, or_false] at hrow
  rcases hrow with rfl | rfl | rfl | rfl | rfl | rfl | rfl | rfl <;> exact ⟨rfl, _, _, rfl, rfl, rfl⟩

theorem test_witness_XfoldGivesXorOfAllBytes :
    tooLongFor (zeros 262).cfg (zeros 262).ports.din.length ∧ fits (zeros 261).cfg (zeros 261).ports.din.length ∧
      fits (zeros 0).cfg (zeros 0).ports.din.length ∧
      [0x02, 0x01].Perm (State.reset.withDin [0x01, 0x02]).ports.din ∧
      ∃ t, exec (.xfold 0x0) (State.reset.withDin [0x01, 0x02]) = .next t :=
  ⟨tooLong_reset (by simp [zeros_length]), fits_reset (by simp [zeros_length]), fits_reset (by simp [zeros_length]),
    by decide, _, rfl⟩

/-- Too long; empty; one byte; 261 bytes. For CSUM and for VERIFY. -/
theorem test_witness_CsumGivesSlotValue_VerifyTestsLastByte :
    tooLongFor (zeros 262).cfg (zeros 262).ports.din.length ∧
      (fits (zeros 0).cfg (zeros 0).ports.din.length ∧ (zeros 0).ports.din = []) ∧
      (fits (zeros 1).cfg (zeros 1).ports.din.length ∧ (zeros 1).ports.din = [] ++ [0x00]) ∧
      fits (zeros 261).cfg (zeros 261).ports.din.length ∧
      (zeros 261).ports.din = zeroBytes 260 ++ [0x00] :=
  ⟨tooLong_reset (by simp [zeros_length]), ⟨fits_reset (by simp [zeros_length]), rfl⟩,
    ⟨fits_reset (by simp [zeros_length]), rfl⟩, fits_reset (by simp [zeros_length]), zeroBytes_succ 260⟩

theorem test_witness_AfeedFoldsByteIntoAcc :
    State.reset.ports.p0 = 0x00 ∧ State.reset.ports.p0 = State.reset.acc := by decide

theorem test_witness_VerifyIffFoldsToZero :
    ((zeros 1).ports.din ≠ [] ∧ fits (zeros 1).cfg (zeros 1).ports.din.length) ∧
      (zeros 261).ports.din ≠ [] ∧ fits (zeros 261).cfg (zeros 261).ports.din.length :=
  ⟨⟨by decide, fits_reset (by simp [zeros_length])⟩, List.ne_nil_of_length_pos (by simp [zeros_length]),
      fits_reset (by simp [zeros_length])⟩

/-- No transaction after ACLR; two AFEEDs with a CSUM and an illegal request between. -/
theorem test_witness_StreamedFoldIsXorOfFedBytes :
    let tr : Byte → Ports := fun w => ⟨w, 0xA6, 0, hdrFixed, []⟩
    ∀ ps ∈ [[], [tr 0x09, tr 0x02, tr 0x00, tr 0x09]],
      let s : State := { State.reset with stream := .present (tr 0xF8) :: (ps.map HostEvent.present ++ [.reset]) }
      s.cfg.admitted = true ∧ reqOp (tr 0xF8).req = 0x8 ∧ (∀ p ∈ ps, reqOp p.req ≠ 0x8) ∧
        s.stream = .present (tr 0xF8) :: (ps.map HostEvent.present ++ [.reset]) := by decide

theorem verify_zeros (n : Nat) (h : n < 261) (s : State) (hs : s.cfg = State.reset.cfg) :
    exec (.verify 0x0) (s.withDin (zeroBytes (n + 1))) =
      .next { s.withDin (zeroBytes (n + 1)) with outputs := some { Outputs.ok with rf := true } } := by
  have h1 : exceedsMax State.reset.cfg (n + 1) = false := (exceedsMax_eq_false_iff _ _).mpr (fits_reset h)
  have h2 : verifies (zeroBytes (n + 1)) = true :=
    (verifies_iff _).mpr ⟨zeroBytes n, by rw [xorAll_zeros, zeroBytes_succ]⟩
  have h3 : exceedsMax (s.withDin (zeroBytes (n + 1))).cfg (s.withDin (zeroBytes (n + 1))).ports.din.length =
      false := by
    simpa [hs] using h1
  have h4 : verifies (s.withDin (zeroBytes (n + 1))).ports.din = true := h2
  rw [exec, execVerify, h3, h4]
  rfl

/-- A permutation; one byte changed, the sequence of 261 bytes; two bytes of a sequence of 261 and of 2 bytes. -/
theorem test_witness_VerifyDetection :
    [0x02, 0x01].Perm ([0x01, 0x02] : Bytes) ∧
    (fits State.reset.cfg ((zeroBytes 260).length + 1 + ([] : Bytes).length) ∧
      (0x00 : Byte) ≠ 0x01 ∧
      exec (.verify 0x0) (State.reset.withDin (zeroBytes 260 ++ [0x00] ++ [])) =
        .next { State.reset.withDin (zeroBytes 260 ++ [0x00] ++ []) with
          outputs := some { Outputs.ok with rf := true } }) ∧
    (fits State.reset.cfg ((zeroBytes 259).length + 1 + ([] : Bytes).length + 1 + ([] : Bytes).length) ∧
      exec (.verify 0x0) (State.reset.withDin (zeroBytes 259 ++ [0x00] ++ [] ++ [0x00] ++ [])) =
        .next { State.reset.withDin (zeroBytes 259 ++ [0x00] ++ [] ++ [0x00] ++ []) with
          outputs := some { Outputs.ok with rf := true } }) ∧
    (fits State.reset.cfg (([] : Bytes).length + 1 + ([] : Bytes).length + 1 + ([] : Bytes).length) ∧
      exec (.verify 0x0) (State.reset.withDin ([] ++ [0xA7] ++ [] ++ [0xA7] ++ [])) =
        .next { State.reset.withDin ([] ++ [0xA7] ++ [] ++ [0xA7] ++ []) with
          outputs := some { Outputs.ok with rf := true } }) := by
  refine ⟨by decide, ⟨fits_reset (by simp), by decide, ?_⟩, ⟨fits_reset (by simp), ?_⟩, fits_reset (by simp), rfl⟩
  · rw [List.append_nil, ← zeroBytes_succ]
    exact verify_zeros 260 (by omega) State.reset rfl
  · rw [List.append_nil, List.append_nil, ← zeroBytes_succ, ← zeroBytes_succ]
    exact verify_zeros 260 (by omega) State.reset rfl

/-- Bodies of 0, 255 and 256 bytes. -/
theorem test_witness_EncodeFramesBody_EncodedFrameVerifies :
    fits (zeros 0).cfg ((zeros 0).ports.din.length + 6) ∧ fits (zeros 255).cfg ((zeros 255).ports.din.length + 6) ∧
      tooLongFor (zeros 256).cfg ((zeros 256).ports.din.length + 6) :=
  ⟨fits_reset (by simp [zeros_length]), fits_reset (by simp [zeros_length]), tooLong_reset (by simp [zeros_length])⟩

/-- 262, 0, 1 and 6 bytes; a wrong checksum in 7 and in 261 bytes; a wrong length byte in 7 bytes (L is 1, which
counts them) and in 261 bytes (L is 0). -/
theorem test_witness_FrameChecksInOrder :
    ((∃ ent, Instr.decode 0xF = .decode ent) ∧ ∃ e, Instr.parseSerGet = parseOf e) ∧
    tooLongFor (zeros 262).cfg (zeros 262).ports.din.length ∧
    (fits (zeros 0).cfg (zeros 0).ports.din.length ∧ (zeros 0).ports.din.length = 0) ∧
    (fits (zeros 1).cfg (zeros 1).ports.din.length ∧ fits (zeros 6).cfg (zeros 6).ports.din.length) ∧
    (let pre : Bytes := zeroBytes 6
      let s := State.reset.withDin (pre ++ [0x01])
      fits s.cfg s.ports.din.length ∧ s.ports.din.length = 7 ∧ (0x01 : Byte) ≠ xorAll pre) ∧
    (let pre : Bytes := zeroBytes 260
      let s := State.reset.withDin (pre ++ [0x01])
      fits s.cfg s.ports.din.length ∧ s.ports.din.length = 261 ∧ (0x01 : Byte) ≠ xorAll pre) ∧
    (let pre : Bytes := [0xA6, 0x01, 0x00, 0x00, 0x01, 0x01]
      let s := State.reset.withDin (pre ++ [xorAll pre])
      fits s.cfg s.ports.din.length ∧ s.ports.din.length = 7 ∧ s.ports.din[4]? = some 0x01 ∧
        (0x01 : Byte).toNat < 2) ∧
    (let pre : Bytes := zeroBytes 260
      let s := State.reset.withDin (pre ++ [xorAll pre])
      fits s.cfg s.ports.din.length ∧ s.ports.din.length = 261 ∧ s.ports.din[4]? = some 0x00 ∧
        s.ports.din.length ≠ (0x00 : Byte).toNat + 6) := by
  refine ⟨⟨⟨0xF, rfl⟩, .serGet, rfl⟩, tooLong_reset (by simp [zeros_length]),
    ⟨fits_reset (by simp [zeros_length]), rfl⟩,
    ⟨fits_reset (by simp [zeros_length]), fits_reset (by simp [zeros_length])⟩,
    ⟨fits_reset (by simp), by simp, by decide⟩, ⟨fits_reset (by simp), by simp, ?_⟩,
    ⟨fits_reset (by simp), by decide, by decide, by decide⟩, fits_reset (by simp), by simp, ?_, by simp⟩
  · rw [xorAll_zeros]; decide
  · rfl

theorem test_witness_DecodeSplitsReply :
    HoldsReply (held 0xFF 0x45 []) [0xA6, 0x01, 0x00, 0x00] 0xFF 0x45 [] ∧
      HoldsReply (held 0xFF 0x45 (zeroBytes 253)) [0xA6, 0x01, 0x00, 0x00] 0xFF 0x45
        (zeroBytes 253) := held_ends 0xFF 0x45

/-- The shortest body, and the longest whose frame is no longer than MAX_LEN. -/
theorem test_witness_LoopbackRoundTrip :
    ∀ n ∈ [0, 252],
      let params : Bytes := zeroBytes n
      let s : State := { State.reset with ports :=
        ⟨0x04, 0, 0, hdrFixed, [BitVec.ofNat 8 (n + 2), 0x01, 0x19] ++ params⟩ }
      s.ports.hdr = hdrFixed ∧ s.ports.din = [BitVec.ofNat 8 (n + 2), 0x01, 0x19] ++ params ∧
        (BitVec.ofNat 8 (n + 2)).toNat = params.length + 2 ∧ fits s.cfg (params.length + 9) := by
  intro n hn
  refine ⟨rfl, rfl, ?_, fits_reset ?_⟩ <;> simp at hn ⊢ <;> omega

theorem test_witness_NoDirectRoundTrip : State.reset.cfg.admitted = true := by decide

theorem test_witness_WorkedReplyDecodes : ∀ x ∈ ([0xA3, 0xA2] : List Byte),
    let s := State.reset.withDin [0xA6, 0x01, 0x00, 0x00, 0x05, 0x01, 0x02, 0x03, 0x04, 0x05, x]
    s.cfg.admitted = true ∧ s.ports.din = [0xA6, 0x01, 0x00, 0x00, 0x05, 0x01, 0x02, 0x03, 0x04, 0x05, x] := by
  decide

/-- The frame of BUILD.PWR_GET, and a state that has its header and its body on the ports. -/
theorem test_witness_BuiltFrameIsEncodedBody :
    let f : Bytes := [0xA6, 0x01, 0x00, 0x00, 0x00, 0x03, 0x01, 0x19, 0x00, 0xBC]
    let t : State := { State.reset with ports := ⟨0x04, 0, 0, hdrFixed, [0x03, 0x01, 0x19, 0x00]⟩ }
    State.reset.cfg.admitted = true ∧
      exec (buildOf .pwrGet) State.reset = .next { State.reset with outputs := some { Outputs.ok with dout := f } } ∧
      t.cfg = State.reset.cfg ∧ t.ports.hdr.toList = f.take 5 ∧ t.ports.din = (f.drop 5).dropLast :=
  ⟨by decide, rfl, rfl, rfl, rfl⟩

/-- One reply for each clause: its opcode, its data byte, at the values 0x00 and 0xFF. -/
theorem test_witness_ParseSingleSlotGets : ∀ v ∈ ([0x00, 0xFF] : List Byte),
    let c := State.reset.cfg
    (∀ opc ∈ [c.opPwrGet, c.opVolGet, c.opPfmtGet, c.opTempGet, c.opPipGet],
      HoldsReply (held 0x01 opc [v]) [0xA6, 0x01, 0x00, 0x00] 0x01 opc [v]) ∧
    fieldOf c.resp.pwr [c.opPwrGet, v] = some v ∧ fieldOf c.resp.vol [c.opVolGet, v] = some v ∧
    fieldOf c.resp.pfmt [c.opPfmtGet, v] = some (v &&& 0x03) ∧ fieldOf c.resp.temp [c.opTempGet, v] = some v ∧
    fieldOf c.resp.pip [c.opPipGet, v] = some v := by
  intro v hv
  refine ⟨fun opc _ => held_holds _ _ _ (by simp), ?_⟩
  revert v
  decide

theorem test_witness_ParseSourceAndVideoGets :
    let c := State.reset.cfg
    (HoldsReply (held 0x01 c.opSrcGet [0x05, 0x01]) [0xA6, 0x01, 0x00, 0x00] 0x01 c.opSrcGet [0x05, 0x01] ∧
      fieldOf c.resp.srcT [c.opSrcGet, 0x05, 0x01] = some 0x05 ∧
      fieldOf c.resp.srcN [c.opSrcGet, 0x05, 0x01] = some 0x01) ∧
    HoldsReply (held 0x01 c.opVidGet [0x32, 0x40, 0x0A]) [0xA6, 0x01, 0x00, 0x00] 0x01 c.opVidGet [0x32, 0x40, 0x0A] ∧
      fieldOf c.resp.bri [c.opVidGet, 0x32, 0x40, 0x0A] = some 0x32 ∧
      fieldOf c.resp.con [c.opVidGet, 0x32, 0x40, 0x0A] = some 0x40 ∧
      fieldOf c.resp.shp [c.opVidGet, 0x32, 0x40, 0x0A] = some 0x0A :=
  ⟨⟨held_holds _ _ _ (by simp), by decide, by decide⟩, held_holds _ _ _ (by simp), by decide, by decide, by decide⟩

/-- The 14 bytes of X13. -/
def serialBytes : Vector Byte 14 :=
  #v[0x41, 0x42, 0x43, 0x44, 0x45, 0x46, 0x47, 0x48, 0x49, 0x4A, 0x4B, 0x4C, 0x4D, 0x4E]

theorem test_witness_ParseSerialNumberGet :
    HoldsReply (held 0x01 0x15 serialBytes.toList) [0xA6, 0x01, 0x00, 0x00] 0x01 0x15 serialBytes.toList ∧
      (State.reset.cfg.echo.serGet = true → (0x15 : Byte) = State.reset.cfg.opSerGet) ∧
      ∀ i : Fin 14, fieldOf State.reset.cfg.resp.ser[i] (0x15 :: serialBytes.toList) = some serialBytes[i] :=
  ⟨held_holds _ _ _ (by simp), fun _ => rfl, by decide⟩

/-- Without a data byte, and with one or more. -/
theorem test_witness_PictureFormatIsLowTwoBits : ∀ data ∈ ([[], [0xFF], [0x04, 0x02]] : List Bytes),
    (held 0x01 0x3B data).cfg.admitted = true ∧
      HoldsReply (held 0x01 0x3B data) [0xA6, 0x01, 0x00, 0x00] 0x01 0x3B data ∧
      ((held 0x01 0x3B data).cfg.echo.pfmtGet = true → (0x3B : Byte) = (held 0x01 0x3B data).cfg.opPfmtGet) := by
  intro data hdata
  refine ⟨by simp only [held, withDin_cfg]; decide, held_holds _ _ _ ?_, fun _ => rfl⟩
  revert data
  decide

/-- An acknowledgement without data, whose opcode is no entry's, and the longest one. -/
theorem test_witness_ParseSetsWriteNoField :
    HoldsReply (held 0x00 0x00 []) [0xA6, 0x01, 0x00, 0x00] 0x00 0x00 [] ∧
      HoldsReply (held 0x00 0x00 (zeroBytes 253)) [0xA6, 0x01, 0x00, 0x00] 0x00 0x00
        (zeroBytes 253) := held_ends 0x00 0x00

theorem test_witness_WrongOpcodeIsUnexpected :
    HoldsReply (held 0x01 0x00 []) [0xA6, 0x01, 0x00, 0x00] 0x01 0x00 [] ∧
      ∀ row ∈ getRows (held 0x01 0x00 []).cfg, row.echo = true ∧ 0x00 ≠ row.opcode :=
  ⟨held_holds _ _ _ (by simp), by simp only [held, withDin_cfg]; decide⟩

/-- For every get entry a reply one byte short of its greatest index. -/
theorem test_witness_ShortReplyIsPayloadShort :
    ∀ row ∈ getRows State.reset.cfg, ∀ n ∈ [0, row.indices.length - 1],
      HoldsReply (held 0x01 row.opcode (zeroBytes n)) [0xA6, 0x01, 0x00, 0x00] 0x01 row.opcode
        (zeroBytes n) ∧ ∃ k ∈ row.indices, (zeroBytes n).length < k := by
  have h : ∀ row ∈ getRows State.reset.cfg, ∀ n ∈ [0, row.indices.length - 1],
      n ≤ 253 ∧ ∃ k ∈ row.indices, n < k := by decide
  intro row hrow n hn
  simp only [zeroBytes_length]
  exact ⟨held_holds _ _ _ (by simpa using (h row hrow n hn).1), (h row hrow n hn).2⟩

/-- For every get entry the shortest reply that holds every byte its rule reads. -/
theorem test_witness_ParseGetAcceptsExactly :
    ∀ row ∈ getRows State.reset.cfg, ∃ h ctl opc data,
      HoldsReply (held ctl opc data) h ctl opc data ∧ (row.echo = true → opc = row.opcode) ∧
        ∀ k ∈ row.indices, k ≤ data.length := by
  have h : ∀ row ∈ getRows State.reset.cfg,
      row.indices.length ≤ 253 ∧ ∀ k ∈ row.indices, k ≤ row.indices.length := by decide
  intro row hrow
  exact ⟨_, 0x01, row.opcode, zeroBytes row.indices.length,
    held_holds _ _ _ (by simpa using (h row hrow).1), fun _ => rfl, by simpa using (h row hrow).2⟩

/-- Both outcomes: no field, and a field. -/
theorem test_witness_FieldsAllOrNothing :
    (∃ t o, exec (parseOf .volGet) State.reset = .next t ∧ t.outputs = some o ∧ o.fv = 0x00) ∧
      ∃ t o, exec (parseOf .volGet) (held 0x01 0x45 [0x20]) = .next t ∧ t.outputs = some o ∧ o.fv = 0x04 :=
  ⟨⟨_, _, rfl, rfl, rfl⟩, _, _, rfl, rfl, rfl⟩

theorem test_witness_LoopbackThroughParse :
    State.reset.cfg.admitted = true ∧ State.reset.cfg.resp = .specDefault := by decide

/-- The shortest and the longest acknowledgement. -/
theorem test_witness_SetThenGetGivesValue : ∀ n ∈ [0, 253],
    let h : Bytes := [0xA6, 0x01, 0x00, 0x00]
    let ack : Bytes := zeroBytes n
    let events := exchange .pwrSet .undriven (replyFrame h 0x01 0x00 ack) ++
      exchange .pwrGet .undriven (replyFrame h 0x01 State.reset.cfg.opPwrGet [0x02]) ++ []
    let s : State := { State.reset with stream := events }
    s.cfg.admitted = true ∧ s.cfg.resp = .specDefault ∧ h.length = 4 ∧ ack.length ≤ 253 ∧ s.stream = events := by
  intro n hn
  refine ⟨(by decide : Config.cfg0.admitted = true), rfl, rfl, ?_, rfl⟩
  simp at hn ⊢
  omega

theorem test_witness_SnapshotChangesOnlyOnOkGet :
    let n : Snapshot := ⟨0, 0, 0, 0, 0, 0, 0, 0, 0, Vector.replicate 14 0⟩
    ∃ t o, exec .parseVolGet (held 0x01 0x45 [0x20]) = .next t ∧ t.outputs = some o ∧ n.update o ≠ n :=
  ⟨_, _, rfl, rfl, by decide⟩

end Sys2Proof.Tests
end

section
/-! PROOFS. What every instruction has in common: the kinds of instruction, the equations of `exec` by kind, and
the operations that do not touch ACC. -/

namespace Sys2Proof.Machine

/-! ### The kinds of instruction -/

/-- The case split that follows 30_encoding.md R62 and R63: seven operations that ignore ENT, BUILD of an entry and
PARSE of an entry. -/
theorem instr_cases {motive : Instr → Prop} (xfold : ∀ ent, motive (.xfold ent)) (csum : ∀ ent, motive (.csum ent))
    (verify : ∀ ent, motive (.verify ent)) (encode : ∀ ent, motive (.encode ent))
    (decode : ∀ ent, motive (.decode ent)) (aclr : ∀ ent, motive (.aclr ent)) (afeed : ∀ ent, motive (.afeed ent))
    (build : ∀ e, motive (buildOf e)) (parse : ∀ e, motive (parseOf e)) (i : Instr) : motive i :=
  match i with
  | .xfold ent => xfold ent
  | .csum ent => csum ent
  | .verify ent => verify ent
  | .encode ent => encode ent
  | .decode ent => decode ent
  | .aclr ent => aclr ent
  | .afeed ent => afeed ent
  | .buildPwrGet => build .pwrGet
  | .buildPwrSet => build .pwrSet
  | .buildSrcGet => build .srcGet
  | .buildSrcSet => build .srcSet
  | .buildVolGet => build .volGet
  | .buildVolSet => build .volSet
  | .buildPfmtGet => build .pfmtGet
  | .buildPfmtSet => build .pfmtSet
  | .buildVidGet => build .vidGet
  | .buildTempGet => build .tempGet
  | .buildPipGet => build .pipGet
  | .buildSerGet => build .serGet
  | .parsePwrGet => parse .pwrGet
  | .parsePwrSet => parse .pwrSet
  | .parseSrcGet => parse .srcGet
  | .parseSrcSet => parse .srcSet
  | .parseVolGet => parse .volGet
  | .parseVolSet => parse .volSet
  | .parsePfmtGet => parse .pfmtGet
  | .parsePfmtSet => parse .pfmtSet
  | .parseVidGet => parse .vidGet
  | .parseTempGet => parse .tempGet
  | .parsePipGet => parse .pipGet
  | .parseSerGet => parse .serGet

theorem touchesAcc_aclr (ent : BitVec 4) : touchesAcc (.aclr ent) := ⟨ent, .inl rfl⟩

theorem touchesAcc_afeed (ent : BitVec 4) : touchesAcc (.afeed ent) := ⟨ent, .inr rfl⟩

/-! ### The equations of `exec`; those of BUILD and PARSE are `exec_buildOf` and `exec_parseOf` -/

@[simp] theorem exec_xfold (ent : BitVec 4) (s : State) : exec (.xfold ent) s = execXfold s := rfl
@[simp] theorem exec_csum (ent : BitVec 4) (s : State) : exec (.csum ent) s = execCsum s := rfl
@[simp] theorem exec_verify (ent : BitVec 4) (s : State) : exec (.verify ent) s = execVerify s := rfl
@[simp] theorem exec_encode (ent : BitVec 4) (s : State) : exec (.encode ent) s = execEncode s := rfl
@[simp] theorem exec_decode (ent : BitVec 4) (s : State) : exec (.decode ent) s = execDecode s := rfl

/-- ACLR clears ACC and gives its new value on RB (40_checksum.md R104). -/
theorem exec_aclr (ent : BitVec 4) (s : State) :
    exec (.aclr ent) s = .next { s with acc := 0, outputs := some { Outputs.ok with rb := 0 } } := rfl

/-- AFEED folds P0 into ACC and gives its new value on RB (40_checksum.md R105). -/
theorem exec_afeed (ent : BitVec 4) (s : State) :
    exec (.afeed ent) s = .next { s with
      acc := s.acc ^^^ s.ports.p0, outputs := some { Outputs.ok with rb := s.acc ^^^ s.ports.p0 } } := rfl

/-- DECODE and PARSE of a set entry do the same: the frame checks, and no field (43_catalog_demux.md R161). -/
theorem execDecode_eq_parseSet (s : State) : execDecode s = parseSet s := rfl

theorem parseEntry_of_group {e : Entry} {g : Group} (h : entryGroup e = some g) (s : State) :
    parseEntry e s = parseGet e g s := by
  simp only [parseEntry, h]

theorem parseEntry_of_no_group {e : Entry} (h : entryGroup e = none) (s : State) :
    parseEntry e s = parseSet s := by
  simp only [parseEntry, h]

theorem parseSet_of_error {s : State} {st : Status} (h : dcore s.cfg s.ports.din = .error st) :
    parseSet s = raise st s := by
  simp only [parseSet, h]

theorem parseSet_of_ok {s : State} {r : Reply} (h : dcore s.cfg s.ports.din = .ok r) :
    parseSet s = complete r.outputs s := by
  simp only [parseSet, h]

theorem parseGet_of_error {s : State} {st : Status} (e : Entry) (g : Group)
    (h : dcore s.cfg s.ports.din = .error st) : parseGet e g s = raise st s := by
  simp only [parseGet, h]

theorem parseGet_of_ok {s : State} {r : Reply} (e : Entry) (g : Group) (h : dcore s.cfg s.ports.din = .ok r) :
    parseGet e g s =
      if echoBit s.cfg e && decide (r.opc ≠ wop s.cfg e) then raise .unexpectedOpcode s
      else if anyOutside (respRule s.cfg e) r.region then raise .payloadShort s
      else complete { r.outputs with fld := extractFields (respRule s.cfg e) r.region, fv := g.mask } s := by
  simp only [parseGet, h]

/-! ### Stateless operations -/

/-- An operation that completes in every state with outputs that are a function of CFG and the ports alone, and
changes nothing but the outputs (10_state.md R21, R31). -/
def Stateless (m : State → Host.Outcome State Fault Refusal) : Prop :=
  ∃ f : Config → Ports → Outputs, ∀ s, m s = complete (f s.cfg s.ports) s

/-- The outputs of an operation that starts with DCORE: those of the status DCORE raises, or those `f` makes of the
reply. -/
def dcoreOutputs (f : Reply → Outputs) (result : Except Status Reply) : Outputs :=
  match result with
  | .error st => Outputs.cleared st
  | .ok r => f r

namespace Stateless

variable {m m' : State → Host.Outcome State Fault Refusal}

theorem of_eq (h : ∀ s, m s = m' s) (hm : Stateless m') : Stateless m := by
  rwa [funext h]

theorem of_complete (f : Config → Ports → Outputs) : Stateless fun s => complete (f s.cfg s.ports) s :=
  ⟨f, fun _ => rfl⟩

theorem of_raise (st : Status) : Stateless (raise st) :=
  ⟨fun _ _ => Outputs.cleared st, fun _ => rfl⟩

/-- A test of CFG and the ports keeps an operation stateless. -/
theorem ite (b : Config → Ports → Bool) (hm : Stateless m) (hm' : Stateless m') :
    Stateless fun s => if b s.cfg s.ports then m s else m' s := by
  obtain ⟨f, hf⟩ := hm
  obtain ⟨f', hf'⟩ := hm'
  refine ⟨fun c p => if b c p then f c p else f' c p, fun s => ?_⟩
  cases h : b s.cfg s.ports
  · simpa [h] using hf' s
  · simpa [h] using hf s

/-- An operation that raises what DCORE raises, and is stateless on every reply, is stateless. -/
theorem of_dcore {k : Reply → State → Host.Outcome State Fault Refusal} (hk : ∀ r, Stateless (k r))
    (herror : ∀ s st, dcore s.cfg s.ports.din = .error st → m s = raise st s)
    (hok : ∀ s r, dcore s.cfg s.ports.din = .ok r → m s = k r s) : Stateless m := by
  choose f hf using hk
  refine ⟨fun c p => dcoreOutputs (f · c p) (dcore c p.din), fun s => ?_⟩
  show m s = complete (dcoreOutputs (f · s.cfg s.ports) (dcore s.cfg s.ports.din)) s
  cases h : dcore s.cfg s.ports.din with
  | error st => exact herror s st h
  | ok r => exact (hok s r h).trans (hf r s)

/-! Each meaning but those of ACLR and AFEED is stateless. -/

theorem execXfold : Stateless execXfold :=
  ite (fun c p => exceedsMax c p.din.length) (of_raise .tooLong)
    (of_complete fun _ p => { Outputs.ok with rb := xorFold p.din })

theorem execCsum : Stateless execCsum :=
  ite (fun c p => exceedsMax c p.din.length) (of_raise .tooLong)
    (of_complete fun _ p => { Outputs.ok with rb := slotChecksum p.din })

theorem execVerify : Stateless execVerify :=
  ite (fun c p => exceedsMax c p.din.length) (of_raise .tooLong)
    (of_complete fun _ p => { Outputs.ok with rf := verifies p.din })

theorem execEncode : Stateless execEncode :=
  ite (fun c p => exceedsMax c (p.din.length + 6)) (of_raise .tooLong)
    (of_complete fun _ p => { Outputs.ok with dout := withChecksum (p.hdr.toList ++ p.din) })

theorem buildEntry (e : Entry) : Stateless (buildEntry e) :=
  of_complete fun c p => { Outputs.ok with dout := requestFrame c e p.p0 p.p1 }

theorem parseSet : Stateless parseSet :=
  of_dcore (fun r => of_complete fun _ _ => r.outputs) (fun _ _ => parseSet_of_error) fun _ _ => parseSet_of_ok

theorem parseGet (e : Entry) (g : Group) : Stateless (parseGet e g) :=
  of_dcore
    (fun r => ite (fun c _ => echoBit c e && decide (r.opc ≠ wop c e)) (of_raise .unexpectedOpcode) <|
      ite (fun c _ => anyOutside (respRule c e) r.region) (of_raise .payloadShort) <|
        of_complete fun c _ => { r.outputs with fld := extractFields (respRule c e) r.region, fv := g.mask })
    (fun _ _ => parseGet_of_error e g) fun _ _ => parseGet_of_ok e g

theorem parseEntry (e : Entry) : Stateless (parseEntry e) := by
  cases h : entryGroup e with
  | none => exact of_eq (parseEntry_of_no_group h) parseSet
  | some g => exact of_eq (parseEntry_of_group h) (parseGet e g)

end Stateless

/-- 10_state.md R21: every instruction but ACLR and AFEED is stateless. -/
theorem exec_stateless {i : Instr} (hi : ¬ touchesAcc i) : Stateless (exec i) := by
  cases i using instr_cases with
  | xfold ent => exact .of_eq (exec_xfold ent) .execXfold
  | csum ent => exact .of_eq (exec_csum ent) .execCsum
  | verify ent => exact .of_eq (exec_verify ent) .execVerify
  | encode ent => exact .of_eq (exec_encode ent) .execEncode
  | decode ent => exact .of_eq (fun s => (exec_decode ent s).trans (execDecode_eq_parseSet s)) .parseSet
  | aclr ent => exact absurd (touchesAcc_aclr ent) hi
  | afeed ent => exact absurd (touchesAcc_afeed ent) hi
  | build e => exact .of_eq (exec_buildOf e) (.buildEntry e)
  | parse e => exact .of_eq (exec_parseOf e) (.parseEntry e)

/-- The frame of every instruction: it completes, and changes nothing but ACC and the outputs. -/
theorem exec_changes_only_acc_outputs (i : Instr) (s : State) :
    ∃ a o, exec i s = .next { s with acc := a, outputs := some o } := by
  by_cases hi : touchesAcc i
  · obtain ⟨ent, rfl | rfl⟩ := hi
    · exact ⟨_, _, exec_aclr ent s⟩
    · exact ⟨_, _, exec_afeed ent s⟩
  · obtain ⟨f, hf⟩ := exec_stateless hi
    exact ⟨_, _, hf s⟩

theorem exec_next_cfg_stream {i : Instr} {s t : State} (h : exec i s = .next t) :
    t.cfg = s.cfg ∧ t.stream = s.stream := by
  obtain ⟨a, o, he⟩ := exec_changes_only_acc_outputs i s
  obtain rfl := Host.Outcome.next.inj (he.symm.trans h)
  exact ⟨rfl, rfl⟩

/-! ### Steps that answer a next state -/

/-- A step that answers a next state was a reset, an instruction, or a transaction with an illegal request word. -/
theorem step_next_cases {s t : State} (h : step s = .next t) :
    (∃ rest, s.stream = .reset :: rest ∧ t = resetBlock rest s) ∨
    (∃ p rest i, s.stream = .present p :: rest ∧ decode p.req = .ok i ∧ exec i (accept p rest s) = .next t) ∨
    (∃ p rest e, s.stream = .present p :: rest ∧ decode p.req = .error e ∧
      t = { accept p rest s with outputs := some (Outputs.cleared (illegalStatus e)) }) := by
  obtain ⟨-, hs⟩ | ⟨-, ⟨-, hs⟩ | ⟨-, -, -, -, -, hs⟩ | ⟨rest, hstream, hs⟩ | ⟨p, rest, i, hstream, hi, hs⟩ |
    ⟨p, rest, e, hstream, he, hs⟩⟩ := step_cases s <;> rw [hs] at h
  · cases h
  · cases h
  · cases h
  · exact .inl ⟨rest, hstream, (Host.Outcome.next.inj h).symm⟩
  · exact .inr (.inl ⟨p, rest, i, hstream, hi, h⟩)
  · exact .inr (.inr ⟨p, rest, e, hstream, he, (raise_eq_next_iff _ _ _).mp h⟩)

/-! ### The ports as the host drives them -/

theorem hostByte_toNat (v : Nat) : (hostByte v).toNat = v % 256 := BitVec.toNat_ofNat v 8

@[simp] theorem drive_p0 (req : Byte) (v w : Nat) (hdr : Vector Byte 5) (din : Bytes) :
    (Ports.drive req v w hdr din).p0 = hostByte v := rfl

@[simp] theorem drive_p1 (req : Byte) (v w : Nat) (hdr : Vector Byte 5) (din : Bytes) :
    (Ports.drive req v w hdr din).p1 = hostByte w := rfl

end Sys2Proof.Machine
end

section
/-! PROOFS. The statements of 10_state.md. -/

namespace Sys2Proof.Machine

/-- Settles O15, by the three ways a step can answer a next state. -/
theorem stepKeepsConfigAndConsumes : Obligations.StepKeepsConfigAndConsumes := by
  intro s t h
  obtain ⟨rest, hs, rfl⟩ | ⟨p, rest, i, hs, -, hexec⟩ | ⟨p, rest, e, hs, -, rfl⟩ := step_next_cases h
  · exact ⟨rfl, .reset, hs⟩
  · obtain ⟨hcfg, hstream⟩ := exec_next_cfg_stream hexec
    exact ⟨hcfg, .present p, by rw [hs, hstream, accept_stream]⟩
  · exact ⟨rfl, .present p, hs⟩

/-- Settles O17: what is not ACLR or AFEED is stateless, and a stateless operation leaves ACC. -/
theorem onlyAclrAfeedWriteAcc : Obligations.OnlyAclrAfeedWriteAcc := by
  intro i s t hi h
  obtain ⟨f, hf⟩ := exec_stateless hi
  obtain rfl := (complete_eq_next_iff _ s t).mp ((hf s).symm.trans h)
  rfl

/-- Settles O18: ACLR and AFEED by their equations, every other instruction because it is stateless. -/
theorem outputsAreFunctionOfInputs : Obligations.OutputsAreFunctionOfInputs := by
  intro i s t hcfg hports hacc
  by_cases hi : touchesAcc i
  · have ha := hacc hi
    obtain ⟨ent, rfl | rfl⟩ := hi
    · exact ⟨_, _, _, exec_aclr ent s, exec_aclr ent t, fun _ => rfl⟩
    · refine ⟨_, _, _, exec_afeed ent s, ?_, fun _ => rfl⟩
      rw [ha, hports]
      exact exec_afeed ent t
  · obtain ⟨f, hf⟩ := exec_stateless hi
    refine ⟨f s.cfg s.ports, s.acc, t.acc, hf s, ?_, fun h => absurd h hi⟩
    rw [hcfg, hports]
    exact hf t

/-- Settles O44: a port takes a host value modulo 256. -/
theorem hostValuesCutToByte : Obligations.HostValuesCutToByte := by
  intro req v w hdr din
  exact ⟨by rw [drive_p0, hostByte_toNat], by rw [drive_p1, hostByte_toNat]⟩

end Sys2Proof.Machine
end

section
/-! PROOFS. One equation of `step` for each kind of host event, what a stateless operation keeps, and what AFEED
does to ACC. -/

namespace Sys2Proof.Machine

variable {s t : State} {p : Ports} {rest : List HostEvent}

/-! ### The equations of `step` -/

theorem step_of_not_admitted (hadm : s.cfg.admitted = false) : step s = .refused .configNotAdmitted := by
  simp only [step, hadm]

theorem step_together {q : Ports} {more : List Ports} (hadm : s.cfg.admitted = true)
    (hs : s.stream = .together p q more :: rest) : step s = .refused .concurrentTransactions := by
  simp only [step, hadm, hs]

theorem step_reset (hadm : s.cfg.admitted = true) (hs : s.stream = .reset :: rest) :
    step s = .next (resetBlock rest s) := by
  simp only [step, hadm, hs]

theorem step_present_of_ok {i : Instr} (hadm : s.cfg.admitted = true) (hs : s.stream = .present p :: rest)
    (hi : decode p.req = .ok i) : step s = exec i (accept p rest s) := by
  simp only [step, hadm, hs, hi]

theorem step_present_of_error {e : Illegal} (hadm : s.cfg.admitted = true) (hs : s.stream = .present p :: rest)
    (he : decode p.req = .error e) : step s = raise (illegalStatus e) (accept p rest s) := by
  simp only [step, hadm, hs, he]

/-- A presented transaction always completes: with its instruction's outputs, or with the status of its illegal
request word (60_exceptions.md R201, R204). -/
theorem step_present_completes (hadm : s.cfg.admitted = true) (hs : s.stream = .present p :: rest) :
    ∃ t, step s = .next t := by
  cases hd : decode p.req with
  | ok i =>
    obtain ⟨a, o, he⟩ := exec_changes_only_acc_outputs i (accept p rest s)
    exact ⟨_, (step_present_of_ok hadm hs hd).trans he⟩
  | error e => exact ⟨_, step_present_of_error hadm hs hd⟩

/-- A host event that keeps the contract is never refused. -/
theorem step_serialised_completes {e : HostEvent} (hadm : s.cfg.admitted = true) (hs : s.stream = e :: rest)
    (he : e.serialised = true) : ∃ t, step s = .next t := by
  cases e with
  | present p => exact step_present_completes hadm hs
  | together p q more => cases he
  | reset => exact ⟨_, step_reset hadm hs⟩

/-! ### What operations keep -/

theorem Stateless.changes_only_outputs {m : State → Host.Outcome State Fault Refusal} (hm : Stateless m)
    (h : m s = .next t) : t = { s with outputs := t.outputs } := by
  obtain ⟨f, hf⟩ := hm
  obtain rfl := (complete_eq_next_iff _ s t).mp ((hf s).symm.trans h)
  rfl

/-- The outputs are a function of CFG and the ports, which a first run leaves: a second run gives them again. -/
theorem Stateless.idempotent {m : State → Host.Outcome State Fault Refusal} (hm : Stateless m)
    (h : m s = .next t) : m t = .next t := by
  obtain ⟨f, hf⟩ := hm
  obtain rfl := (complete_eq_next_iff _ s t).mp ((hf s).symm.trans h)
  exact hf _

/-- AFEED folds P0 into ACC and leaves the ports (40_checksum.md R105). -/
theorem afeed_next_acc_ports {ent : BitVec 4} (h : exec (.afeed ent) s = .next t) :
    t.acc = s.acc ^^^ s.ports.p0 ∧ t.ports = s.ports := by
  obtain rfl := Host.Outcome.next.inj ((exec_afeed ent s).symm.trans h)
  exact ⟨rfl, rfl⟩

end Sys2Proof.Machine
end

section
/-! PROOFS. The statements of 20_memory.md. -/

namespace Sys2Proof.Machine

/-- Settles O7, by the equation of `step` for a request word that decodes. -/
theorem stepRunsDecodedInstruction : Obligations.StepRunsDecodedInstruction := by
  intro s p rest i hadm hs hi
  exact step_present_of_ok hadm hs hi

/-- Settles O8: the configuration is tested first, so the reason is known only when it is admitted. -/
theorem togetherIsRefused : Obligations.TogetherIsRefused := by
  intro s p q more rest hs
  cases hadm : s.cfg.admitted with
  | false => exact ⟨_, step_of_not_admitted hadm, nofun⟩
  | true => exact ⟨_, step_together hadm hs, fun _ => rfl⟩

/-- Settles O19: what is not ACLR or AFEED is stateless, and folding a byte into ACC twice cancels. -/
theorem statelessOperationsIdempotent : Obligations.StatelessOperationsIdempotent := by
  refine ⟨fun i s t hi h => ?_, fun e e' s t u ht hu => ?_⟩
  · have hm := exec_stateless hi
    exact ⟨hm.changes_only_outputs h, hm.idempotent h⟩
  · obtain ⟨htacc, htports⟩ := afeed_next_acc_ports ht
    obtain ⟨huacc, -⟩ := afeed_next_acc_ports hu
    calc u.acc = (s.acc ^^^ s.ports.p0) ^^^ s.ports.p0 := by rw [huacc, htacc, htports]
      _ = s.acc := by rw [BitVec.xor_assoc, BitVec.xor_self, BitVec.xor_zero]

/-- Settles O20, by induction on the events: the first is not refused, and its step leaves the configuration and
the later events as they were. -/
theorem serialisedStreamRunsToEnd : Obligations.SerialisedStreamRunsToEnd := by
  intro s events rest hadm hs hser
  induction events generalizing s with
  | nil => exact ⟨s, run_zero s, hs, rfl⟩
  | cons e events ih =>
    obtain ⟨he, hevents⟩ := List.forall_mem_cons.mp hser
    obtain ⟨t, hstep⟩ := step_serialised_completes hadm hs he
    obtain ⟨hcfg, e', hconsumed⟩ := stepKeepsConfigAndConsumes s t hstep
    have htail : t.stream = events ++ rest := (List.cons.inj (hconsumed.symm.trans hs)).2
    obtain ⟨u, hrun, hrest, hucfg⟩ := ih t (hcfg ▸ hadm) htail hevents
    exact ⟨u, (run_succ events.length hstep).trans hrun, hrest, hucfg.trans hcfg⟩

end Sys2Proof.Machine
end

section
/-! PROOFS. The decoder and the encoder of request words: the two nibbles, the words of each operation, and the four
kinds of word (30_encoding.md R60 to R76). -/

namespace Sys2Proof.Machine

/-! ### The nibbles of a request word (30_encoding.md R60, R75) -/

@[simp] theorem reqOp_reqWord (ent op : BitVec 4) : reqOp (reqWord ent op) = op :=
  BitVec.extractLsb'_append_eq_right

@[simp] theorem reqEnt_reqWord (ent op : BitVec 4) : reqEnt (reqWord ent op) = ent :=
  BitVec.extractLsb'_append_eq_left

theorem reqWord_reqEnt_reqOp (w : Byte) : reqWord (reqEnt w) (reqOp w) = w :=
  BitVec.extractLsb'_append_extractLsb' (w := 4) (len := 4)

/-- A number is the request word of its quotient and remainder by 16. -/
theorem ofNat_eq_reqWord (n : Nat) {k : Nat} (hk : k < 16) :
    BitVec.ofNat 8 (16 * n + k) = reqWord (BitVec.ofNat 4 n) (BitVec.ofNat 4 k) := by
  apply BitVec.eq_of_toNat_eq
  have hk4 : k % 2 ^ 4 < 2 ^ 4 := Nat.mod_lt _ (by decide)
  rw [reqWord, BitVec.toNat_append, BitVec.toNat_ofNat, BitVec.toNat_ofNat, BitVec.toNat_ofNat,
    ← Nat.shiftLeft_add_eq_or_of_lt hk4, Nat.shiftLeft_eq]
  omega

/-! ### ENT values (30_encoding.md R63, R71) -/

@[simp] theorem decodeEntry_ent (e : Entry) : decodeEntry e.ent = some e := by
  cases e <;> rfl

theorem ent_toNat_lt (e : Entry) : e.ent.toNat < 12 := by
  cases e <;> decide

/-- An ENT value is an entry's or reserved. -/
theorem ent_cases (ent : BitVec 4) : (∃ e : Entry, ent = e.ent) ∨ 12 ≤ ent.toNat ∧ decodeEntry ent = none := by
  cases h : decodeEntry ent with
  | none => exact .inr ⟨by revert ent; decide, rfl⟩
  | some e => exact .inl ⟨e, by revert ent; cases e <;> decide⟩

/-! ### The words of BUILD and PARSE, and the reserved words -/

theorem encode_buildOf (e : Entry) : encode (buildOf e) = reqWord e.ent 0x6 := by
  cases e <;> rfl

theorem encode_parseOf (e : Entry) : encode (parseOf e) = reqWord e.ent 0x7 := by
  cases e <;> rfl

theorem entryOf_buildOf (e : Entry) : entryOf (buildOf e) = some e := by
  cases e <;> rfl

theorem entryOf_parseOf (e : Entry) : entryOf (parseOf e) = some e := by
  cases e <;> rfl

/-- The request word of every instruction decodes to it, each plain operation by its law. -/
theorem decode_encode (i : Instr) : decode (encode i) = .ok i := by
  cases i using instr_cases with
  | xfold ent => exact Laws.RequestWord.xfold ent
  | csum ent => exact Laws.RequestWord.csum ent
  | verify ent => exact Laws.RequestWord.verify ent
  | encode ent => exact Laws.RequestWord.encode ent
  | decode ent => exact Laws.RequestWord.decode ent
  | aclr ent => exact Laws.RequestWord.aclr ent
  | afeed ent => exact Laws.RequestWord.afeed ent
  | build e => simp [encode_buildOf, decode]
  | parse e => simp [encode_parseOf, decode]

theorem decode_reservedEntry {ent op : BitVec 4} (hent : decodeEntry ent = none)
    (hop : op ∈ ([0x6, 0x7] : List (BitVec 4))) : decode (reqWord ent op) = .error .entry := by
  simp only [List.mem_cons, List.not_mem_nil, or_false] at hop
  obtain rfl | rfl := hop <;> simp [decode, hent]

theorem decode_reservedOp (ent : BitVec 4) {op : BitVec 4} (hop : op.toNat = 0 ∨ 10 ≤ op.toNat) :
    decode (reqWord ent op) = .error .op := by
  unfold decode
  rw [reqOp_reqWord]
  split
  case h_10 => rfl
  all_goals exact absurd hop (by decide)

/-! ### The four kinds of request word (30_encoding.md R76) -/

theorem mem_plainOps_iff (op : BitVec 4) : op ∈ ([0x1, 0x2, 0x3, 0x4, 0x5, 0x8, 0x9] : List (BitVec 4)) ↔
    1 ≤ op.toNat ∧ op.toNat ≤ 5 ∨ op.toNat = 8 ∨ op.toNat = 9 := by
  revert op
  decide

theorem mem_catalogOps_iff (op : BitVec 4) :
    op ∈ ([0x6, 0x7] : List (BitVec 4)) ↔ op.toNat = 6 ∨ op.toNat = 7 := by
  revert op
  decide

theorem mem_reservedOps_iff (op : BitVec 4) :
    op ∈ ([0x0, 0xA, 0xB, 0xC, 0xD, 0xE, 0xF] : List (BitVec 4)) ↔ op.toNat = 0 ∨ 10 ≤ op.toNat := by
  revert op
  decide

/-- An OP other than BUILD, PARSE and the reserved ones names one operation, which carries the ENT nibble and reads
it nowhere (R72). -/
theorem exists_plain {op : BitVec 4} (hop : op ∈ ([0x1, 0x2, 0x3, 0x4, 0x5, 0x8, 0x9] : List (BitVec 4))) :
    ∃ f : BitVec 4 → Instr, (∀ ent, encode (f ent) = reqWord ent op) ∧ (∀ ent, entryOf (f ent) = none) ∧
      ∀ ent ent' s, exec (f ent) s = exec (f ent') s := by
  simp only [List.mem_cons, List.not_mem_nil, or_false] at hop
  obtain rfl | rfl | rfl | rfl | rfl | rfl | rfl := hop
  · exact ⟨.xfold, fun _ => rfl, fun _ => rfl, fun _ _ _ => rfl⟩
  · exact ⟨.csum, fun _ => rfl, fun _ => rfl, fun _ _ _ => rfl⟩
  · exact ⟨.verify, fun _ => rfl, fun _ => rfl, fun _ _ _ => rfl⟩
  · exact ⟨.encode, fun _ => rfl, fun _ => rfl, fun _ _ _ => rfl⟩
  · exact ⟨.decode, fun _ => rfl, fun _ => rfl, fun _ _ _ => rfl⟩
  · exact ⟨.aclr, fun _ => rfl, fun _ => rfl, fun _ _ _ => rfl⟩
  · exact ⟨.afeed, fun _ => rfl, fun _ => rfl, fun _ _ _ => rfl⟩

theorem exists_catalog (e : Entry) {op : BitVec 4} (hop : op ∈ ([0x6, 0x7] : List (BitVec 4))) :
    ∃ i, encode i = reqWord e.ent op ∧ entryOf i = some e := by
  simp only [List.mem_cons, List.not_mem_nil, or_false] at hop
  obtain rfl | rfl := hop
  · exact ⟨buildOf e, encode_buildOf e, entryOf_buildOf e⟩
  · exact ⟨parseOf e, encode_parseOf e, entryOf_parseOf e⟩

/-- What a request word can be: the word of one of the seven operations, of BUILD or PARSE of an entry, or reserved,
by its entry or by its operation. -/
theorem word_cases (w : Byte) :
    (∃ i, encode i = w ∧ decode w = .ok i ∧ entryOf i = none ∧
      (1 ≤ (reqOp w).toNat ∧ (reqOp w).toNat ≤ 5 ∨ (reqOp w).toNat = 8 ∨ (reqOp w).toNat = 9)) ∨
    (∃ i e, encode i = w ∧ decode w = .ok i ∧ entryOf i = some e ∧
      ((reqOp w).toNat = 6 ∨ (reqOp w).toNat = 7) ∧ (reqEnt w).toNat < 12) ∨
    (decode w = .error .entry ∧ ((reqOp w).toNat = 6 ∨ (reqOp w).toNat = 7) ∧ 12 ≤ (reqEnt w).toNat) ∨
    (decode w = .error .op ∧ ((reqOp w).toNat = 0 ∨ 10 ≤ (reqOp w).toNat)) := by
  obtain ⟨ent, op, rfl⟩ : ∃ ent op, w = reqWord ent op := ⟨_, _, (reqWord_reqEnt_reqOp w).symm⟩
  simp only [reqOp_reqWord, reqEnt_reqWord, ← mem_plainOps_iff, ← mem_catalogOps_iff]
  have hops : op ∈ ([0x1, 0x2, 0x3, 0x4, 0x5, 0x8, 0x9] : List (BitVec 4)) ∨
      op ∈ ([0x6, 0x7] : List (BitVec 4)) ∨ (op.toNat = 0 ∨ 10 ≤ op.toNat) := by
    rw [mem_plainOps_iff, mem_catalogOps_iff]
    omega
  obtain hop | hop | hop := hops
  · obtain ⟨f, hword, hentry, -⟩ := exists_plain hop
    exact .inl ⟨f ent, hword ent, hword ent ▸ decode_encode _, hentry ent, hop⟩
  · obtain ⟨e, rfl⟩ | ⟨hreserved, hent⟩ := ent_cases ent
    · obtain ⟨i, hword, hentry⟩ := exists_catalog e hop
      exact .inr (.inl ⟨i, e, hword, hword ▸ decode_encode i, hentry, hop, ent_toNat_lt e⟩)
    · exact .inr (.inr (.inl ⟨decode_reservedEntry hent hop, hop, hreserved⟩))
  · exact .inr (.inr (.inr ⟨decode_reservedOp ent hop, hop⟩))

theorem encode_of_decode {w : Byte} {i : Instr} (h : decode w = .ok i) : encode i = w := by
  obtain ⟨j, hw, hd, -⟩ | ⟨j, -, hw, hd, -⟩ | ⟨hd, -⟩ | ⟨hd, -⟩ := word_cases w
  · exact Except.ok.inj (hd.symm.trans h) ▸ hw
  · exact Except.ok.inj (hd.symm.trans h) ▸ hw
  · cases hd.symm.trans h
  · cases hd.symm.trans h

/-! ### Each kind by the values of OP and ENT -/

/-- The words of the seven operations that ignore ENT. -/
theorem decodesWithoutEntry_iff (w : Byte) : ((decode w).toOption.any fun i => (entryOf i).isNone) = true ↔
    1 ≤ (reqOp w).toNat ∧ (reqOp w).toNat ≤ 5 ∨ (reqOp w).toNat = 8 ∨ (reqOp w).toNat = 9 := by
  obtain ⟨i, -, hd, he, hop⟩ | ⟨i, e, -, hd, he, hop, -⟩ | ⟨hd, hop, -⟩ | ⟨hd, hop⟩ := word_cases w
  · exact iff_of_true (by simp [hd, he, Except.toOption]) hop
  · exact iff_of_false (by simp [hd, he, Except.toOption]) (by omega)
  · exact iff_of_false (by simp [hd, Except.toOption]) (by omega)
  · exact iff_of_false (by simp [hd, Except.toOption]) (by omega)

/-- The words of BUILD and PARSE of an entry. -/
theorem decodesWithEntry_iff (w : Byte) : ((decode w).toOption.any fun i => (entryOf i).isSome) = true ↔
    ((reqOp w).toNat = 6 ∨ (reqOp w).toNat = 7) ∧ (reqEnt w).toNat < 12 := by
  obtain ⟨i, -, hd, he, hop⟩ | ⟨i, e, -, hd, he, hop, hent⟩ | ⟨hd, -, hent⟩ | ⟨hd, hop⟩ := word_cases w
  · exact iff_of_false (by simp [hd, he, Except.toOption]) (by omega)
  · exact iff_of_true (by simp [hd, he, Except.toOption]) ⟨hop, hent⟩
  · exact iff_of_false (by simp [hd, Except.toOption]) (by omega)
  · exact iff_of_false (by simp [hd, Except.toOption]) (by omega)

theorem decode_eq_error_entry_iff (w : Byte) : decode w = .error .entry ↔
    ((reqOp w).toNat = 6 ∨ (reqOp w).toNat = 7) ∧ 12 ≤ (reqEnt w).toNat := by
  obtain ⟨i, -, hd, -, hop⟩ | ⟨i, e, -, hd, -, hop, hent⟩ | ⟨hd, hop, hent⟩ | ⟨hd, hop⟩ := word_cases w
  · exact iff_of_false (by simp [hd]) (by omega)
  · exact iff_of_false (by simp [hd]) (by omega)
  · exact iff_of_true hd ⟨hop, hent⟩
  · exact iff_of_false (by simp [hd]) (by omega)

theorem decode_eq_error_op_iff (w : Byte) :
    decode w = .error .op ↔ (reqOp w).toNat = 0 ∨ 10 ≤ (reqOp w).toNat := by
  obtain ⟨i, -, hd, -, hop⟩ | ⟨i, e, -, hd, -, hop, -⟩ | ⟨hd, hop, -⟩ | ⟨hd, hop⟩ := word_cases w
  · exact iff_of_false (by simp [hd]) (by omega)
  · exact iff_of_false (by simp [hd]) (by omega)
  · exact iff_of_false (by simp [hd]) (by omega)
  · exact iff_of_true hd hop

/-- A word is rejected by one of the two names. -/
theorem decode_toBool_eq_false_iff (w : Byte) :
    (decode w).toBool = false ↔ decode w = .error .entry ∨ decode w = .error .op := by
  cases decode w with
  | ok i => simp [Except.toBool]
  | error e => cases e <;> simp [Except.toBool]

theorem rejected_catalogOp_iff (w : Byte) :
    (decode w).toBool = false ∧ reqOp w ∈ ([0x6, 0x7] : List (BitVec 4)) ↔ decode w = .error .entry := by
  rw [decode_toBool_eq_false_iff, decode_eq_error_entry_iff, decode_eq_error_op_iff, mem_catalogOps_iff]
  omega

theorem rejected_otherOp_iff (w : Byte) :
    (decode w).toBool = false ∧ reqOp w ∉ ([0x6, 0x7] : List (BitVec 4)) ↔ decode w = .error .op := by
  rw [decode_toBool_eq_false_iff, decode_eq_error_entry_iff, decode_eq_error_op_iff, mem_catalogOps_iff]
  omega

/-! ### Counting words -/

/-- The 4-bit values below `n`. -/
def nibblesBelow (n : Nat) : List (BitVec 4) := (List.range n).map (BitVec.ofNat 4)

/-- The sixteen words from `16 * n` are the words with one value of ENT. -/
theorem words_with_ent (n : Nat) :
    ((List.range 16).map (16 * n + ·)).map (BitVec.ofNat 8) = (nibblesBelow 16).map (reqWord (BitVec.ofNat 4 n)) := by
  rw [nibblesBelow, List.map_map, List.map_map]
  exact List.map_congr_left fun k hk => ofNat_eq_reqWord n (List.mem_range.mp hk)

/-- The words with the ENT of a test and the OP of a test number the product of what the two tests admit. -/
theorem length_filter_words {p : Byte → Bool} (r q : BitVec 4 → Bool)
    (h : ∀ w, p w = (r (reqEnt w) && q (reqOp w))) (n : Nat) :
    (((List.range (16 * n)).map (BitVec.ofNat 8)).filter p).length =
      ((nibblesBelow n).filter r).length * ((nibblesBelow 16).filter q).length := by
  induction n with
  | zero => simp [nibblesBelow]
  | succ n ih =>
    have hrow : (((nibblesBelow 16).map (reqWord (BitVec.ofNat 4 n))).filter p).length =
        (([BitVec.ofNat 4 n] : List (BitVec 4)).filter r).length * ((nibblesBelow 16).filter q).length := by
      rw [List.filter_map, List.length_map]
      cases hr : r (BitVec.ofNat 4 n) <;> simp [Function.comp_def, h, hr]
    have hsucc : nibblesBelow (n + 1) = nibblesBelow n ++ [BitVec.ofNat 4 n] := by
      simp [nibblesBelow, List.range_succ]
    rw [Nat.mul_succ, List.range_add, List.map_append, List.filter_append, List.length_append, ih, words_with_ent,
      hrow, hsucc, List.filter_append, List.length_append, Nat.add_mul]

end Sys2Proof.Machine
end

section
/-! PROOFS. Frames: the parts of a framed body, the body of a request by its entry, and VERIFY and ENCODE on
sequences no longer than MAX_LEN. -/

namespace Sys2Proof.Machine

/-! ### A body framed with a 5-byte header and a checksum (41_frame_codec.md R120) -/

section
variable (hdr : Vector Byte 5) (body : Bytes)

theorem framed_length : (withChecksum (hdr.toList ++ body)).length = body.length + 6 := by
  simp [withChecksum]
  omega

theorem framed_header : (withChecksum (hdr.toList ++ body)).take 5 = hdr.toList := by
  simp [withChecksum]

theorem framed_body : ((withChecksum (hdr.toList ++ body)).drop 5).dropLast = body := by
  simp [withChecksum]

theorem framed_lengthByte (L : Byte) : (withChecksum (hdr.toList ++ L :: body))[5]? = some L := by
  simp [withChecksum]

end

theorem verifies_withChecksum (pre : Bytes) : verifies (withChecksum pre) = true :=
  (verifies_iff _).mpr ⟨pre, withChecksum_eq pre⟩

/-! ### Operations on sequences no longer than MAX_LEN -/

theorem execVerify_of_fits {s : State} (h : fits s.cfg s.ports.din.length) :
    execVerify s = complete { Outputs.ok with rf := verifies s.ports.din } s := by
  simp [execVerify, (exceedsMax_eq_false_iff _ _).mpr h]

theorem execEncode_of_fits {s : State} (h : fits s.cfg (s.ports.din.length + 6)) :
    execEncode s = complete { Outputs.ok with dout := withChecksum (s.ports.hdr.toList ++ s.ports.din) } s := by
  simp [execEncode, (exceedsMax_eq_false_iff _ _).mpr h]

/-! ### Request bodies (30_encoding.md R64 to R67) -/

/-- A request body begins with its length byte, which counts the bytes after it: 3, 4 or 7 by the entry's shape. -/
theorem bodyOf_lengthByte (c : Config) (e : Entry) (p0 p1 : Byte) :
    ∃ (L : Byte) (rest : Bytes), bodyOf c e p0 p1 = L :: rest ∧ rest.length = L.toNat ∧
      L.toNat = (if e = .srcSet then 7 else if e ∈ [Entry.pwrSet, .volSet, .pfmtSet] then 4 else 3) := by
  cases e <;> exact ⟨_, _, rfl, rfl, rfl⟩

end Sys2Proof.Machine
end

section
/-! PROOFS. The statements of 30_encoding.md. -/

namespace Sys2Proof.Machine

/-- Settles O1: what a word decodes to encodes back, and every instruction's word decodes to it. -/
theorem requestWordIffInstruction : Obligations.RequestWordIffInstruction := by
  intro w i
  constructor
  · intro h
    exact (encode_of_decode h).symm
  · rintro rfl
    exact decode_encode i

/-- Settles O4: the one operation an OP names does the same with every ENT nibble. -/
theorem ignoredEntNibbleChangesNothing : Obligations.IgnoredEntNibbleChangesNothing := by
  intro op hop e e'
  obtain ⟨f, hword, -, hexec⟩ := exists_plain hop
  exact ⟨f e, f e', hword e ▸ decode_encode _, hword e' ▸ decode_encode _, hexec e e'⟩

/-- Settles O5: a reserved OP is what `decode` rejects by the name `op`. -/
theorem reservedOpEndsIllegalOp : Obligations.ReservedOpEndsIllegalOp := by
  intro s p rest hadm hs hop
  exact step_present_of_error hadm hs ((decode_eq_error_op_iff p.req).mpr hop)

/-- Settles O43: the frame of BUILD is its body framed with the fixed header. -/
theorem builtFrameIsEncodedBody : Obligations.BuiltFrameIsEncodedBody := by
  intro ent ent' e s hadm
  obtain ⟨L, rest, hbody, hrest, hL⟩ := bodyOf_lengthByte s.cfg e s.ports.p0 s.ports.p1
  have hf : requestFrame s.cfg e s.ports.p0 s.ports.p1 = withChecksum (hdrFixed.toList ++ L :: rest) := by
    rw [requestFrame, hbody]
  have hlen : (withChecksum (hdrFixed.toList ++ L :: rest)).length = L.toNat + 7 := by
    rw [framed_length, List.length_cons, hrest]
  have hfits : fits s.cfg (L.toNat + 7) := fits_of_admitted hadm (by rw [hL]; split_ifs <;> omega)
  refine ⟨withChecksum (hdrFixed.toList ++ L :: rest), L, ?_, framed_header _ _, framed_lengthByte _ _ _, hlen, hL,
    ?_, fun t hcfg hhdr hdin => ?_⟩
  · rw [exec_buildOf, buildEntry_eq, hf]
  · rw [exec_verify, execVerify_of_fits (by rwa [withDin_din, withDin_cfg, hlen]), withDin_din,
      verifies_withChecksum]
    rfl
  · rw [framed_header] at hhdr
    rw [framed_body] at hdin
    have htfits : fits t.cfg (t.ports.din.length + 6) := by
      rwa [hcfg, hdin, List.length_cons, hrest]
    rw [exec_encode, execEncode_of_fits htfits, hhdr, hdin]
    rfl

/-- Settles O2: each word is its instruction's, or reserved by the value of its nibbles. -/
theorem writtenOutWordsDecode : Obligations.WrittenOutWordsDecode :=
  ⟨decode_encode (.xfold 0x0), decode_encode (.xfold 0xF), decode_encode (.encode 0x0), decode_encode (.aclr 0x0),
    decode_encode .buildSrcSet, decode_encode .buildSerGet, decode_encode .parsePfmtGet, decode_encode .parseVidGet,
    (decode_eq_error_op_iff _).mpr (by decide), (decode_eq_error_entry_iff _).mpr (by decide)⟩

/-- Settles O3: the kinds by value, and each count as the number of ENT values times the number of OPs:
112 = 16 * 7, 24 = 12 * 2, 8 = 4 * 2, 112 = 16 * 7. -/
theorem requestSpaceDivides : Obligations.RequestSpaceDivides := by
  have hplain := decodesWithoutEntry_iff
  have hcatalog := decodesWithEntry_iff
  have hentry := decode_eq_error_entry_iff
  have hop := decode_eq_error_op_iff
  unfold Obligations.RequestSpaceDivides
  simp only [← mem_plainOps_iff, ← mem_catalogOps_iff, ← mem_reservedOps_iff] at hplain hcatalog hentry hop
  refine ⟨hplain, hcatalog, hentry, hop, ?_, ?_, ?_, ?_⟩
  · exact length_filter_words (fun _ => true) (· ∈ ([0x1, 0x2, 0x3, 0x4, 0x5, 0x8, 0x9] : List (BitVec 4)))
      (fun w => by rw [Bool.eq_iff_iff, hplain]; simp) 16
  · exact length_filter_words (fun ent => decide (ent.toNat < 12)) (· ∈ ([0x6, 0x7] : List (BitVec 4)))
      (fun w => by rw [Bool.eq_iff_iff, hcatalog]; simp [and_comm]) 16
  · exact length_filter_words (fun ent => decide (12 ≤ ent.toNat)) (· ∈ ([0x6, 0x7] : List (BitVec 4)))
      (fun w => by rw [Bool.eq_iff_iff, decide_eq_true_eq, rejected_catalogOp_iff, hentry]; simp [and_comm]) 16
  · exact length_filter_words (fun _ => true) (· ∈ ([0x0, 0xA, 0xB, 0xC, 0xD, 0xE, 0xF] : List (BitVec 4)))
      (fun w => by rw [Bool.eq_iff_iff, decide_eq_true_eq, rejected_otherOp_iff, hop]; simp) 16

end Sys2Proof.Machine
end

section
/-! PROOFS. The XOR of all bytes, XFOLD and CSUM on sequences no longer than MAX_LEN, VERIFY on a sequence put on
DIN, and what a presented transaction and a run of them do to ACC. -/

namespace Sys2Proof.Machine

/-! ### The XOR of all bytes (40_checksum.md R100) -/

theorem xorAll_append (a b : Bytes) : xorAll (a ++ b) = xorAll a ^^^ xorAll b := by
  induction a with
  | nil => exact (zero_xor _).symm
  | cons x a ih => rw [List.cons_append, xorAll, xorAll, ih, BitVec.xor_assoc]

theorem xorAll_singleton (x : Byte) : xorAll [x] = x := xor_zero x

theorem xorAll_perm {a b : Bytes} (h : a.Perm b) : xorAll a = xorAll b := by
  induction h with
  | nil => rfl
  | cons x _ ih => rw [xorAll, xorAll, ih]
  | swap x y l =>
    simp only [xorAll]
    ac_rfl
  | trans _ _ ih₁ ih₂ => exact ih₁.trans ih₂

/-- Flipping the bits `m` of one byte flips them in the XOR of all bytes. -/
theorem xorAll_flip (a b : Bytes) (x m : Byte) : xorAll (a ++ [x ^^^ m] ++ b) = xorAll (a ++ [x] ++ b) ^^^ m := by
  simp only [xorAll_append, xorAll_singleton]
  ac_rfl

/-- Flipping the same bits in two bytes cancels. -/
theorem xorAll_flip_two (a b c : Bytes) (x y m : Byte) :
    xorAll (a ++ [x ^^^ m] ++ b ++ [y ^^^ m] ++ c) = xorAll (a ++ [x] ++ b ++ [y] ++ c) := by
  have hfirst := xorAll_flip a (b ++ [y] ++ c) x m
  simp only [← List.append_assoc] at hfirst
  calc xorAll (a ++ [x ^^^ m] ++ b ++ [y ^^^ m] ++ c)
      = xorAll (a ++ [x ^^^ m] ++ b ++ [y] ++ c) ^^^ m := xorAll_flip (a ++ [x ^^^ m] ++ b) c y m
    _ = xorAll (a ++ [x] ++ b ++ [y] ++ c) ^^^ m ^^^ m := by rw [hfirst]
    _ = xorAll (a ++ [x] ++ b ++ [y] ++ c) := xor_cancel_right _ m

/-- A non-empty sequence verifies exactly when it folds to zero (R107). -/
theorem verifies_eq_decide_xorAll {d : Bytes} (hd : d ≠ []) : verifies d = decide (xorAll d = 0) := by
  obtain rfl | ⟨pre, x, rfl⟩ := List.eq_nil_or_concat d
  · exact absurd rfl hd
  · rw [List.concat_eq_append, verifies_concat, xorAll_append, xorAll_singleton, decide_eq_decide,
      xor_eq_zero_iff]

/-! ### XFOLD, CSUM and VERIFY (40_checksum.md R101 to R103); on sequences that fit, VERIFY is `execVerify_of_fits` -/

theorem fits_or_tooLongFor (c : Config) (n : Nat) : fits c n ∨ tooLongFor c n := by
  rw [← exceedsMax_eq_false_iff, ← exceedsMax_iff]
  exact (Bool.eq_false_or_eq_true _).symm

theorem exec_of_tooLong {ent : BitVec 4} {s : State} {i : Instr}
    (hi : i ∈ ([.xfold ent, .csum ent, .verify ent] : List Instr)) (h : tooLongFor s.cfg s.ports.din.length) :
    exec i s = raise .tooLong s := by
  have hmax := (exceedsMax_iff _ _).mpr h
  simp only [List.mem_cons, List.not_mem_nil, or_false] at hi
  obtain rfl | rfl | rfl := hi
  · simp [execXfold, hmax]
  · simp [execCsum, hmax]
  · simp [execVerify, hmax]

theorem execXfold_of_fits {s : State} (h : fits s.cfg s.ports.din.length) :
    execXfold s = complete { Outputs.ok with rb := xorAll s.ports.din } s := by
  simp [execXfold, (exceedsMax_eq_false_iff _ _).mpr h, xorFold_eq_xorAll]

theorem execCsum_of_fits {s : State} (h : fits s.cfg s.ports.din.length) :
    execCsum s = complete { Outputs.ok with rb := xorAll s.ports.din.dropLast } s := by
  simp [execCsum, (exceedsMax_eq_false_iff _ _).mpr h, slotChecksum_eq]

/-- VERIFY of a non-empty sequence on DIN that fits gives RF = `f` exactly when `f` says whether it folds to zero. -/
theorem exec_verify_withDin_iff {s : State} {d : Bytes} (ent : BitVec 4) (f : Bool) (hd : d ≠ [])
    (h : fits s.cfg d.length) :
    exec (.verify ent) (s.withDin d) =
        .next { s.withDin d with outputs := some { Outputs.ok with rf := f } } ↔ decide (xorAll d = 0) = f := by
  rw [exec_verify, execVerify_of_fits (s := s.withDin d) h, withDin_din, complete_eq_next_iff,
    verifies_eq_decide_xorAll hd]
  simp [eq_comm (a := f)]

/-! ### What transactions do to ACC (40_checksum.md R104, R105, R109) -/

/-- A word decodes to the instruction whose own word has the same ENT and OP. -/
theorem decode_of_reqOp {w : Byte} {op : BitVec 4} {i : Instr} (h : reqOp w = op)
    (hword : encode i = reqWord (reqEnt w) op) : decode w = .ok i := by
  have hw : encode i = w := by rw [hword, ← h, reqWord_reqEnt_reqOp]
  rw [← hw, decode_encode]

/-- Only the OPs of ACLR and AFEED select an instruction that touches ACC. -/
theorem reqOp_of_touchesAcc {w : Byte} {i : Instr} (h : decode w = .ok i) (hi : touchesAcc i) :
    reqOp w = 0x8 ∨ reqOp w = 0x9 := by
  rw [← encode_of_decode h]
  obtain ⟨ent, rfl | rfl⟩ := hi
  · exact .inl (reqOp_reqWord ent 0x8)
  · exact .inr (reqOp_reqWord ent 0x9)

theorem fedBytes_cons (p : Ports) (ps : List Ports) :
    fedBytes (p :: ps) = if reqOp p.req = 0x9 then p.p0 :: fedBytes ps else fedBytes ps := by
  simp only [fedBytes, List.filter_cons, decide_eq_true_eq]
  split <;> rfl

section
variable {s t : State} {p : Ports} {ps : List Ports} {rest : List HostEvent}

theorem step_present_aclr_acc (hadm : s.cfg.admitted = true) (hs : s.stream = .present p :: rest)
    (hop : reqOp p.req = 0x8) (h : step s = .next t) : t.acc = 0 := by
  rw [step_present_of_ok hadm hs (decode_of_reqOp (i := .aclr (reqEnt p.req)) hop rfl), exec_aclr] at h
  obtain rfl := Host.Outcome.next.inj h
  rfl

theorem step_present_afeed_acc (hadm : s.cfg.admitted = true) (hs : s.stream = .present p :: rest)
    (hop : reqOp p.req = 0x9) (h : step s = .next t) : t.acc = s.acc ^^^ p.p0 := by
  rw [step_present_of_ok hadm hs (decode_of_reqOp (i := .afeed (reqEnt p.req)) hop rfl)] at h
  exact (afeed_next_acc_ports h).1

/-- A transaction that is neither ACLR nor AFEED leaves ACC, a legal one because it does not touch ACC (O17), an
illegal one because it only raises. -/
theorem step_present_other_acc (hadm : s.cfg.admitted = true) (hs : s.stream = .present p :: rest)
    (haclr : reqOp p.req ≠ 0x8) (hafeed : reqOp p.req ≠ 0x9) (h : step s = .next t) : t.acc = s.acc := by
  cases hd : decode p.req with
  | ok i =>
    rw [step_present_of_ok hadm hs hd] at h
    exact onlyAclrAfeedWriteAcc i (accept p rest s) t (fun hi => (reqOp_of_touchesAcc hd hi).elim haclr hafeed) h
  | error e =>
    rw [step_present_of_error hadm hs hd, raise_eq_next_iff] at h
    rw [h, accept_acc]

theorem step_present_cfg_stream (hs : s.stream = .present p :: rest) (h : step s = .next t) :
    t.cfg = s.cfg ∧ t.stream = rest := by
  obtain ⟨hcfg, e, hconsumed⟩ := stepKeepsConfigAndConsumes s t h
  exact ⟨hcfg, (List.cons.inj (hconsumed.symm.trans hs)).2⟩

/-- A run of transactions without ACLR folds the fed bytes into ACC. -/
theorem run_presents_acc (hadm : s.cfg.admitted = true) (hps : ∀ p ∈ ps, reqOp p.req ≠ 0x8)
    (hs : s.stream = ps.map HostEvent.present ++ rest) :
    ∃ t, run ps.length s = .next t ∧ t.acc = s.acc ^^^ xorAll (fedBytes ps) ∧ t.stream = rest := by
  induction ps generalizing s with
  | nil => exact ⟨s, run_zero s, (xor_zero s.acc).symm, hs⟩
  | cons p ps ih =>
    obtain ⟨hp, hps⟩ := List.forall_mem_cons.mp hps
    obtain ⟨t, hstep⟩ := step_present_completes hadm hs
    obtain ⟨hcfg, hstream⟩ := step_present_cfg_stream hs hstep
    obtain ⟨u, hrun, hacc, hrest⟩ := ih (hcfg ▸ hadm) hps hstream
    refine ⟨u, (run_succ ps.length hstep).trans hrun, ?_, hrest⟩
    by_cases hop : reqOp p.req = 0x9
    · rw [hacc, step_present_afeed_acc hadm hs hop hstep, fedBytes_cons, if_pos hop, xorAll, BitVec.xor_assoc]
    · rw [hacc, step_present_other_acc hadm hs hp hop hstep, fedBytes_cons, if_neg hop]

end

end Sys2Proof.Machine
end

section
/-! PROOFS. The statements of 40_checksum.md. -/

namespace Sys2Proof.Machine

/-- Settles O30: ACLR leaves zero in ACC, and the run after it folds the fed bytes into that. -/
theorem streamedFoldIsXorOfFedBytes : Obligations.StreamedFoldIsXorOfFedBytes := by
  intro s c ps rest hadm hc hps hs
  obtain ⟨t, hstep⟩ := step_present_completes hadm hs
  obtain ⟨hcfg, hstream⟩ := step_present_cfg_stream hs hstep
  obtain ⟨u, hrun, hacc, hrest⟩ := run_presents_acc (hcfg ▸ hadm) hps hstream
  refine ⟨u, (run_succ ps.length hstep).trans hrun, ?_, hrest⟩
  rw [hacc, step_present_aclr_acc hadm hs hc hstep, zero_xor]

/-- Settles O31: VERIFY tests for fold zero; a changed byte changes the fold, and an exchange of two bytes flips the
same bits in both, those in which they differ. -/
theorem verifyDetection : Obligations.VerifyDetection := by
  intro ent s a b c x y m gives
  refine ⟨?_, fun d hd => ?_, fun hfits hxy hx => ?_, fun hfits hx => ?_⟩
  · simp only [xorFold_eq_xorAll, xorAll_append]
  · rw [xorFold_eq_xorAll, xorFold_eq_xorAll, xorAll_perm hd]
  · have hgives (z : Byte) (f : Bool) : gives (a ++ [z] ++ b) f ↔ decide (xorAll (a ++ [z] ++ b) = 0) = f :=
      exec_verify_withDin_iff ent f (by simp) (by simpa only [List.length_append, List.length_singleton] using hfits)
    have hzero : xorAll (a ++ [x] ++ b) = 0 := of_decide_eq_true ((hgives x true).mp hx)
    rw [hgives, decide_eq_false_iff_not, ← xor_cancel_left x y, xorAll_flip, hzero, zero_xor, xor_eq_zero_iff]
    exact hxy
  · have hgives (z w : Byte) (f : Bool) : gives (a ++ [z] ++ b ++ [w] ++ c) f ↔
        decide (xorAll (a ++ [z] ++ b ++ [w] ++ c) = 0) = f :=
      exec_verify_withDin_iff ent f (by simp) (by simpa only [List.length_append, List.length_singleton] using hfits)
    have hflip (n : Byte) : gives (a ++ [x ^^^ n] ++ b ++ [y ^^^ n] ++ c) true := by
      rw [hgives, xorAll_flip_two]
      exact (hgives x y true).mp hx
    refine ⟨?_, hflip m⟩
    have hexchange := hflip (x ^^^ y)
    rwa [xor_cancel_left, BitVec.xor_comm x y, xor_cancel_left] at hexchange

/-- Settles O24: the outputs depend on the length and the fold of DIN only, which a permutation keeps. -/
theorem xfoldGivesXorOfAllBytes : Obligations.XfoldGivesXorOfAllBytes := by
  refine fun ent => ⟨decode_encode (.xfold ent), fun s => ?_⟩
  have hlong (s : State) (h : tooLongFor s.cfg s.ports.din.length) : exec (.xfold ent) s = raise .tooLong s :=
    exec_of_tooLong (ent := ent) (by simp) h
  refine ⟨hlong s, execXfold_of_fits, fun d t hperm h => ?_⟩
  obtain hfits | htoo := fits_or_tooLongFor s.cfg s.ports.din.length
  · rw [exec_xfold, execXfold_of_fits hfits, complete_eq_next_iff] at h
    rw [exec_xfold, execXfold_of_fits (by rwa [withDin_din, hperm.length_eq]), withDin_din, xorAll_perm hperm, h]
    rfl
  · rw [hlong s htoo, raise_eq_next_iff] at h
    rw [hlong _ (by rwa [withDin_din, hperm.length_eq]), h]
    rfl

/-- Settles O25: CSUM folds all bytes but the last. -/
theorem csumGivesSlotValue : Obligations.CsumGivesSlotValue := by
  refine fun ent => ⟨decode_encode (.csum ent), fun s => ⟨exec_of_tooLong (ent := ent) (by simp), ?_, ?_⟩⟩
  · intro hfits hdin
    rw [exec_csum, execCsum_of_fits hfits, hdin]
    rfl
  · intro pre x hfits hdin
    rw [exec_csum, execCsum_of_fits hfits, hdin, List.dropLast_concat]
    rfl

/-- Settles O26: a sequence that fits completes with RF whether it verifies. -/
theorem verifyTestsLastByte : Obligations.VerifyTestsLastByte := by
  refine fun ent => ⟨decode_encode (.verify ent), fun s => ⟨exec_of_tooLong (ent := ent) (by simp), ?_, ?_⟩⟩
  · intro hfits hdin
    rw [exec_verify, execVerify_of_fits hfits, hdin, verifies_nil]
    rfl
  · intro pre x hfits hdin
    rw [exec_verify, execVerify_of_fits hfits, hdin, verifies_concat, decide_eq_decide.mpr eq_comm]
    rfl

/-- Settles O29: appending the fold of the bytes before makes the whole fold to zero. -/
theorem verifyIffFoldsToZero : Obligations.VerifyIffFoldsToZero := by
  intro ent s hne hfits
  rw [exec_verify, execVerify_of_fits hfits, verifies_eq_decide_xorAll hne]
  rfl

/-- Settles O27, by the equation of ACLR. -/
theorem aclrClearsAcc : Obligations.AclrClearsAcc :=
  fun ent => ⟨decode_encode (.aclr ent), exec_aclr ent⟩

/-- Settles O28, by the equation of AFEED and the laws of XOR. -/
theorem afeedFoldsByteIntoAcc : Obligations.AfeedFoldsByteIntoAcc := by
  refine fun ent => ⟨decode_encode (.afeed ent), fun s => ⟨_, exec_afeed ent s, rfl, ?_⟩⟩
  refine ⟨fun h => ?_, fun h => ?_, ?_⟩
  · rw [h, xor_zero]
  · rw [h, LawfulXor.xor_self]
  · rw [xor_cancel_right]

end Sys2Proof.Machine
end

section
/-! PROOFS. DECODE and PARSE by what DCORE gives, the reply frame on DIN, and frames behind the fixed header as the
decoder sees them. -/

namespace Sys2Proof.Machine

/-! ### ENCODE (41_frame_codec.md R120); on bodies whose frame fits it is `execEncode_of_fits` -/

theorem execEncode_of_tooLong {s : State} (h : tooLongFor s.cfg (s.ports.din.length + 6)) :
    execEncode s = raise .tooLong s := by
  simp [execEncode, (exceedsMax_iff _ _).mpr h]

theorem framed_take_body (hdr : Vector Byte 5) (body : Bytes) :
    ((withChecksum (hdr.toList ++ body)).drop 5).take body.length = body := by
  simp [withChecksum]

/-! ### DECODE and PARSE by what DCORE gives (41_frame_codec.md R122, 43_catalog_demux.md R160, R161) -/

theorem parseEntry_of_error {s : State} {st : Status} (e : Entry) (h : dcore s.cfg s.ports.din = .error st) :
    parseEntry e s = raise st s := by
  cases hg : entryGroup e with
  | none => rw [parseEntry_of_no_group hg, parseSet_of_error h]
  | some g => rw [parseEntry_of_group hg, parseGet_of_error e g h]

/-- DECODE and every PARSE begin with DCORE, and end with the status it raises. -/
theorem exec_of_dcore_error {i : Instr} {s : State} {st : Status}
    (hi : (∃ ent, i = .decode ent) ∨ ∃ e, i = parseOf e) (h : dcore s.cfg s.ports.din = .error st) :
    exec i s = raise st s := by
  obtain ⟨ent, rfl⟩ | ⟨e, rfl⟩ := hi
  · rw [exec_decode, execDecode_eq_parseSet, parseSet_of_error h]
  · rw [exec_parseOf, parseEntry_of_error e h]

/-- What DCORE raises is a failure. -/
theorem ne_ok_of_dcore_error {c : Config} {d : Bytes} {st : Status} (h : dcore c d = .error st) : st ≠ .ok := by
  obtain ⟨-, rfl⟩ | ⟨-, -, rfl⟩ | ⟨-, -, -, rfl⟩ | ⟨-, -, -, rfl⟩ | ⟨-, -, -, -, rfl⟩ :=
    (dcore_eq_error_iff c d st).mp h <;> decide

/-- DECODE completes with status OK exactly when DCORE gives a reply. -/
theorem exec_decode_st_ok_iff (ent : BitVec 4) (s : State) :
    (∃ o : Outputs, exec (.decode ent) s = .next { s with outputs := some o } ∧ o.st = .ok) ↔
      ∃ r, dcore s.cfg s.ports.din = .ok r := by
  rw [exec_decode, execDecode_eq_parseSet]
  obtain ⟨st, hdcore, hparse⟩ | ⟨r, hdcore, hparse⟩ := parseSet_cases s
  · rw [hparse, hdcore]
    refine iff_of_false ?_ (by simp)
    rintro ⟨o, ho, hok⟩
    obtain rfl : o = Outputs.cleared st := by simpa using (raise_eq_next_iff _ _ _).mp ho
    exact ne_ok_of_dcore_error hdcore hok
  · exact iff_of_true ⟨r.outputs, hparse, rfl⟩ ⟨r, hdcore⟩

/-! ### A reply frame on DIN (30_encoding.md R68) -/

theorem dcore_of_holdsReply {s : State} {h : Bytes} {ctl opc : Byte} {data : Bytes}
    (hr : HoldsReply s h ctl opc data) :
    dcore s.cfg s.ports.din = .ok ⟨BitVec.ofNat 8 (data.length + 2), ctl, opc, data⟩ := by
  obtain ⟨hh, hdata, hfits, hdin⟩ := hr
  rw [hdin, dcore_replyFrame s.cfg h ctl opc data hh hdata hfits]

theorem holdsReply_of_dcore {s : State} {r : Reply} (hr : dcore s.cfg s.ports.din = .ok r) :
    ∃ h, HoldsReply s h r.ctl r.opc r.data := by
  obtain ⟨h, hh, hdata, hfits, -, hdin⟩ := replyFrame_of_dcore hr
  exact ⟨h, hh, hdata, hfits, hdin⟩

/-- DECODE of a reply frame completes with its parts, the header not among them. -/
theorem exec_decode_of_holdsReply {s : State} {h : Bytes} {ctl opc : Byte} {data : Bytes} (ent : BitVec 4)
    (hr : HoldsReply s h ctl opc data) : exec (.decode ent) s = complete (replyOutputs ctl opc data) s := by
  rw [exec_decode, execDecode_eq_parseSet, parseSet_of_ok (dcore_of_holdsReply hr)]
  rfl

/-! ### Frames behind the fixed header (41_frame_codec.md R129, R130) -/

/-- LOOP of a framed body is the reply frame with the body's command byte, opcode and parameters: the header byte it
takes out is 0, which the checksum does not see. -/
theorem loopFrame_framed {L : Byte} (cmd opc : Byte) {params : Bytes} (hL : L.toNat = params.length + 2) :
    loopFrame (withChecksum (hdrFixed.toList ++ ([L, cmd, opc] ++ params))) =
      replyFrame [0xA6, 0x01, 0x00, 0x00] cmd opc params := by
  have hbyte : L = BitVec.ofNat 8 (params.length + 2) := by rw [← hL, BitVec.ofNat_toNat, BitVec.setWidth_eq]
  rw [withChecksum_eq]
  simp [loopFrame, slice, hdrFixed, replyFrame, xorAll, ← hbyte]

/-- The decoder takes the fifth byte of the fixed header, 0, for the length byte. -/
theorem dcore_framed {c : Config} {body : Bytes} (hbody : body ≠ []) (hfits : fits c (body.length + 6)) :
    dcore c (withChecksum (hdrFixed.toList ++ body)) = .error .lengthMismatch := by
  have hlen := framed_length hdrFixed body
  have hpos := List.length_pos_iff.mpr hbody
  have hlengthByte : byteAt (withChecksum (hdrFixed.toList ++ body)) 4 = 0 := by
    simp [withChecksum, hdrFixed, byteAt]
  refine (dcore_eq_error_iff _ _ _).mpr <| .inr <| .inr <| .inr <| .inr
    ⟨hlen ▸ hfits, by omega, verifies_withChecksum _, .inl ?_, rfl⟩
  rw [hlengthByte]
  decide

end Sys2Proof.Machine
end

section
/-! PROOFS. The statements of 41_frame_codec.md. -/

namespace Sys2Proof.Machine

/-- Settles O32: the frame is HDR and DIN with their checksum appended. -/
theorem encodeFramesBody : Obligations.EncodeFramesBody := by
  refine fun ent => ⟨decode_encode (.encode ent), fun s => ⟨execEncode_of_tooLong, fun hfits => ?_⟩⟩
  rw [exec_encode, execEncode_of_fits hfits, withChecksum_eq]
  rfl

/-- Settles O33: the frame is `withChecksum` of the header and the body, and such a sequence verifies. -/
theorem encodedFrameVerifies : Obligations.EncodedFrameVerifies := by
  intro ent ent' s hfits
  have hlen := framed_length s.ports.hdr s.ports.din
  refine ⟨_, execEncode_of_fits hfits, hlen, framed_header _ _, framed_take_body _ _, ?_⟩
  rw [exec_verify, execVerify_of_fits (by rwa [withDin_din, withDin_cfg, hlen]), withDin_din,
    verifies_withChecksum]
  rfl

/-- Settles O34: each input is one that DCORE raises the status on. -/
theorem frameChecksInOrder : Obligations.FrameChecksInOrder := by
  intro i s hi ends n
  have hends (st : Status) (h : dcore s.cfg s.ports.din = .error st) : ends st := exec_of_dcore_error hi h
  simp only [dcore_eq_error_iff] at hends
  refine ⟨fun hlong => ?_, fun hfits hzero => ?_, fun hfits hpos hshort => ?_,
    fun pre x hfits hseven hdin hx => ?_, fun pre L hfits hseven hdin hbyte hL => ?_⟩
  · exact hends _ (.inl ⟨hlong, rfl⟩)
  · exact hends _ (.inr (.inl ⟨hfits, hzero, rfl⟩))
  · exact hends _ (.inr (.inr (.inl ⟨hfits, hpos, hshort, rfl⟩)))
  · have hverifies : verifies s.ports.din = false := by
      rw [hdin, verifies_concat, decide_eq_false_iff_not]
      exact hx.symm
    exact hends _ (.inr (.inr (.inr (.inl ⟨hfits, hseven, hverifies, rfl⟩))))
  · have hverifies : verifies s.ports.din = true := (verifies_iff _).mpr ⟨pre, hdin⟩
    have hlengthByte : byteAt s.ports.din 4 = L := by simp [byteAt, hbyte]
    exact hends _ (.inr (.inr (.inr (.inr ⟨hfits, hseven, hverifies, hlengthByte ▸ hL, rfl⟩))))

/-- Settles O35, by what DCORE gives on a reply frame. -/
theorem decodeSplitsReply : Obligations.DecodeSplitsReply :=
  fun ent _ _ _ _ _ hr => ⟨decode_encode (.decode ent), exec_decode_of_holdsReply ent hr⟩

/-- Settles O36: OK is DCORE giving a reply, and it gives one on the reply frames that fit only. -/
theorem decodeAcceptsExactlyReplyFrames : Obligations.DecodeAcceptsExactlyReplyFrames := by
  intro ent s
  rw [exec_decode_st_ok_iff]
  constructor
  · rintro ⟨r, hr⟩
    obtain ⟨h, hholds⟩ := holdsReply_of_dcore hr
    exact ⟨h, r.ctl, r.opc, r.data, hholds⟩
  · rintro ⟨h, ctl, opc, data, hholds⟩
    exact ⟨_, dcore_of_holdsReply hholds⟩

/-- Settles O37: LOOP turns the frame ENCODE answers into a reply frame one byte shorter. -/
theorem loopbackRoundTrip : Obligations.LoopbackRoundTrip := by
  intro ent ent' s L cmd opc params hhdr hdin hL hfits
  have hdata : params.length ≤ 253 := by
    have hlt : L.toNat < 256 := L.isLt
    omega
  have hencode := execEncode_of_fits (s := s) (by simpa [hdin] using hfits)
  rw [hhdr, hdin] at hencode
  refine ⟨_, hencode, ?_⟩
  have hholds : HoldsReply (s.withDin (loopFrame (withChecksum (hdrFixed.toList ++ ([L, cmd, opc] ++ params)))))
      [0xA6, 0x01, 0x00, 0x00] cmd opc params :=
    ⟨rfl, hdata, fun m hm => (Nat.le_succ _).trans (hfits m hm), loopFrame_framed cmd opc hL⟩
  rw [exec_decode_of_holdsReply ent' hholds, replyOutputs, ← hL, BitVec.ofNat_toNat, BitVec.setWidth_eq]
  rfl

/-- Settles O38: BUILD answers its body behind the fixed header, at most 14 bytes. -/
theorem noDirectRoundTrip : Obligations.NoDirectRoundTrip := by
  intro ent e s hadm
  obtain ⟨L, rest, hbody, hrest, hL⟩ := bodyOf_lengthByte s.cfg e s.ports.p0 s.ports.p1
  have hfits : fits s.cfg ((L :: rest).length + 6) :=
    fits_of_admitted hadm (by rw [List.length_cons, hrest, hL]; split_ifs <;> omega)
  refine ⟨_, (exec_buildOf e s).trans (buildEntry_eq e s), exec_of_dcore_error (.inl ⟨ent, rfl⟩) ?_⟩
  rw [requestFrame, hbody]
  exact dcore_framed (List.cons_ne_nil _ _) hfits

/-- Settles O39: with 0xA3 it is a reply frame, with any other last byte its checksum is wrong. -/
theorem workedReplyDecodes : Obligations.WorkedReplyDecodes := by
  intro ent s x hadm hdin
  constructor
  · rintro rfl
    have hholds : HoldsReply s [0xA6, 0x01, 0x00, 0x00] 0x01 0x02 [0x03, 0x04, 0x05] :=
      ⟨rfl, by decide, fits_of_admitted hadm (by decide), hdin⟩
    exact exec_decode_of_holdsReply ent hholds
  · intro hx
    have hlen : s.ports.din.length = 11 := by rw [hdin]; rfl
    obtain ⟨-, -, -, hchecksum, -⟩ := frameChecksInOrder (.decode ent) s (.inl ⟨ent, rfl⟩)
    have hfold : xorAll [0xA6, 0x01, 0x00, 0x00, 0x05, 0x01, 0x02, 0x03, 0x04, 0x05] = 0xA3 := by decide
    exact ⟨_, hchecksum _ x (fits_of_admitted hadm (by omega)) (by omega) hdin (hfold ▸ hx), rfl, rfl⟩

end Sys2Proof.Machine
end

section
/-! PROOFS. The request frame of an entry by its kind, BUILD of an entry of each kind, and the words of the reserved
entries. -/

namespace Sys2Proof.Machine

/-! ### Request frames by the kind of entry (42_catalog_mux.md R140 to R146) -/

/-- The fixed header (R141) folds to 0xA7, so a request frame's checksum is the fold of its body with 0xA7 folded
in. -/
theorem requestFrame_eq (c : Config) (e : Entry) (p0 p1 : Byte) :
    requestFrame c e p0 p1 = hdrFixed.toList ++ bodyOf c e p0 p1 ++ [0xA7 ^^^ xorAll (bodyOf c e p0 p1)] := by
  have hheader : xorAll hdrFixed.toList = 0xA7 := by decide
  rw [requestFrame, withChecksum_eq, xorAll_append, hheader]

section
variable {e : Entry}

theorem bodyOf_get (h : entryKind e = .get) (c : Config) (p0 p1 : Byte) :
    bodyOf c e p0 p1 = [0x03, 0x01, wop c e, 0x00] := by
  simp only [bodyOf, h, cmdByte]

theorem bodyOf_simpleSet (h : entryKind e = .simpleSet) (c : Config) (p0 p1 : Byte) :
    bodyOf c e p0 p1 = [0x04, 0x01, wop c e, p0, 0x00] := by
  simp only [bodyOf, h, cmdByte]

/-- R142: the checksum is 0xA5, the fold of the constant bytes, with the opcode folded in. -/
theorem requestFrame_get (h : entryKind e = .get) (c : Config) (p0 p1 : Byte) :
    requestFrame c e p0 p1 = [0xA6, 0x01, 0x00, 0x00, 0x00, 0x03, 0x01, wop c e, 0x00, 0xA5 ^^^ wop c e] := by
  have hchecksum : 0xA7 ^^^ xorAll [0x03, 0x01, wop c e, 0x00] = 0xA5 ^^^ wop c e := by
    simp [xorAll, ← BitVec.xor_assoc]
  rw [requestFrame_eq, bodyOf_get h, hchecksum]
  rfl

/-- R143: the checksum is 0xA2, the fold of the constant bytes, with the opcode and P0 folded in. -/
theorem requestFrame_simpleSet (h : entryKind e = .simpleSet) (c : Config) (p0 p1 : Byte) :
    requestFrame c e p0 p1 =
      [0xA6, 0x01, 0x00, 0x00, 0x00, 0x04, 0x01, wop c e, p0, 0x00, 0xA2 ^^^ wop c e ^^^ p0] := by
  have hchecksum : 0xA7 ^^^ xorAll [0x04, 0x01, wop c e, p0, 0x00] = 0xA2 ^^^ wop c e ^^^ p0 := by
    simp [xorAll, ← BitVec.xor_assoc]
  rw [requestFrame_eq, bodyOf_simpleSet h, hchecksum]
  rfl

end

/-- R144: the opcode is one of the constant bytes, which fold to 0x0C. -/
theorem requestFrame_srcSet (c : Config) (p0 p1 : Byte) :
    requestFrame c .srcSet p0 p1 =
      [0xA6, 0x01, 0x00, 0x00, 0x00, 0x07, 0x01, 0xAC, p0, p1, 0x01, 0x00, 0x00, 0x0C ^^^ p0 ^^^ p1] := by
  have hbody : bodyOf c .srcSet p0 p1 = [0x07, 0x01, 0xAC, p0, p1, 0x01, 0x00, 0x00] := rfl
  have hconst : (0x0C : Byte) = 0xA7 ^^^ 0x07 ^^^ 0x01 ^^^ 0xAC ^^^ 0x01 := by decide
  have hchecksum : 0xA7 ^^^ xorAll [0x07, 0x01, 0xAC, p0, p1, 0x01, 0x00, 0x00] = 0x0C ^^^ p0 ^^^ p1 := by
    simp only [xorAll, hconst, xor_zero]
    ac_rfl
  rw [requestFrame_eq, hbody, hchecksum]
  rfl

/-! ### The opcode table's rows of BUILD -/

/-- BUILD of an entry as the statements list it: the instruction, its request word and the wire opcode. -/
def buildRow (c : Config) (e : Entry) : Instr × Byte × Byte := (buildOf e, encode (buildOf e), wop c e)

/-- The word of a row of BUILD selects its instruction, which answers the request frame. -/
theorem buildRow_builds {e : Entry} {s : State} {f : Bytes}
    (hf : requestFrame s.cfg e s.ports.p0 s.ports.p1 = f) :
    decode (buildRow s.cfg e).2.1 = .ok (buildRow s.cfg e).1 ∧
      exec (buildRow s.cfg e).1 s = .next { s with outputs := some { Outputs.ok with dout := f } } := by
  refine ⟨decode_encode (buildOf e), ?_⟩
  rw [buildRow, exec_buildOf, buildEntry_eq, hf]

/-! ### The words of the reserved entries (30_encoding.md R71) -/

theorem decode_reservedEntryWord {w : Byte}
    (h : w ∈ ([0xC6, 0xD6, 0xE6, 0xF6, 0xC7, 0xD7, 0xE7, 0xF7] : List Byte)) : decode w = .error .entry := by
  rw [decode_eq_error_entry_iff]
  revert w
  decide

end Sys2Proof.Machine
end

section
/-! PROOFS. The statements of 42_catalog_mux.md. -/

namespace Sys2Proof.Machine

/-- Settles O6: each of the eight words is one that `decode` rejects by the name `entry`. -/
theorem reservedEntryEndsIllegalEntry : Obligations.ReservedEntryEndsIllegalEntry := by
  intro s p rest hadm hs hreq
  exact ⟨_, step_present_of_error hadm hs (decode_reservedEntryWord hreq), rfl, rfl, rfl⟩

/-- Settles O40: the rows are those of the entries of kind `get`, whose frame holds neither P0 nor P1. -/
theorem buildGetFrames : Obligations.BuildGetFrames := by
  intro s
  change ∀ row ∈ [Entry.pwrGet, .srcGet, .volGet, .pfmtGet, .vidGet, .tempGet, .pipGet, .serGet].map
    (buildRow s.cfg), _
  rw [List.forall_mem_map]
  intro e he
  have hkind : entryKind e = .get := by
    revert e
    decide
  exact buildRow_builds (requestFrame_get hkind _ _ _)

/-- Settles O41: the rows are those of the entries of kind `simpleSet`, whose frame holds P0. -/
theorem buildSimpleSetFrames : Obligations.BuildSimpleSetFrames := by
  intro s
  change ∀ row ∈ [Entry.pwrSet, .volSet, .pfmtSet].map (buildRow s.cfg), _
  rw [List.forall_mem_map]
  intro e he
  have hkind : entryKind e = .simpleSet := by
    revert e
    decide
  exact buildRow_builds (requestFrame_simpleSet hkind _ _ _)

/-- Settles O42: SRC_SET's frame holds the fixed opcode and both parameters. -/
theorem buildSourceSetFrame : Obligations.BuildSourceSetFrame :=
  ⟨decode_encode .buildSrcSet, fun s => (buildRow_builds (requestFrame_srcSet s.cfg s.ports.p0 s.ports.p1)).2⟩

end Sys2Proof.Machine
end

section
/-! PROOFS. The rows of the get entries, PARSE of a get or a set entry by what its checks make of the reply frame on
DIN, the looped-back request of an entry, and an exchange of the host. -/

namespace Sys2Proof.Machine

/-! ### The rows of the get entries (30_encoding.md R63, 43_catalog_demux.md R162, R163) -/

/-- The row of a get entry, from the operands of its PARSE. -/
def getRow (c : Config) (e : Entry) : GetRow :=
  ⟨parseOf e, echoBit c e, wop c e, (respRule c e).map SlotRule.index⟩

theorem serialRule_indices (c : Config) :
    (respRule c .serGet).map SlotRule.index = c.resp.ser.toList.map FieldRule.index := by
  refine List.ext_getElem (by simp [respRule]) fun i _ _ => ?_
  simp [respRule, slotRule]

theorem getRows_eq (c : Config) : getRows c =
    [Entry.pwrGet, .srcGet, .volGet, .pfmtGet, .vidGet, .tempGet, .pipGet, .serGet].map (getRow c) := by
  simp only [getRows, ← serialRule_indices]
  rfl

theorem exists_group_of_get {e : Entry} (h : entryKind e = .get) : ∃ g, entryGroup e = some g := by
  cases e <;> cases h <;> exact ⟨_, rfl⟩

theorem exists_get_of_mem_getRows {c : Config} {row : GetRow} (h : row ∈ getRows c) :
    ∃ e g, entryGroup e = some g ∧ row = getRow c e := by
  have hkind : ∀ e ∈ [Entry.pwrGet, .srcGet, .volGet, .pfmtGet, .vidGet, .tempGet, .pipGet, .serGet],
      entryKind e = .get := by decide
  rw [getRows_eq] at h
  obtain ⟨e, he, rfl⟩ := List.mem_map.mp h
  obtain ⟨g, hg⟩ := exists_group_of_get (hkind e he)
  exact ⟨e, g, hg, rfl⟩

/-! ### Response rules by slot (43_catalog_demux.md R163, R165) -/

theorem fieldOf_eq_some_iff (r : FieldRule) (region : Bytes) (v : Byte) :
    fieldOf r region = some v ↔ r.index < region.length ∧ byteAt region r.index &&& r.mask = v := by
  by_cases h : r.index < region.length <;> simp [fieldOf, byteAt, h]

/-- An index is outside the response region when it is past the data, the region being the opcode and the data
(R164). -/
theorem anyOutside_region_iff (rules : List SlotRule) (opc : Byte) (data : Bytes) :
    anyOutside rules (opc :: data) = true ↔ ∃ k ∈ rules.map SlotRule.index, data.length < k := by
  simp [anyOutside]

theorem anyOutside_region_eq_false_iff (rules : List SlotRule) (opc : Byte) (data : Bytes) :
    anyOutside rules (opc :: data) = false ↔ ∀ k ∈ rules.map SlotRule.index, k ≤ data.length := by
  simp [anyOutside_eq_false_iff]

/-- The get entry of a field group. -/
def Group.getEntry (g : Group) : Entry :=
  match g with
  | .power => .pwrGet
  | .source => .srcGet
  | .volume => .volGet
  | .pictureFormat => .pfmtGet
  | .video => .vidGet
  | .temperature => .tempGet
  | .pipSource => .pipGet
  | .serialNumber => .serGet

theorem eq_getEntry_of_entryGroup {e : Entry} {g : Group} (h : entryGroup e = some g) : e = g.getEntry := by
  cases e <;> cases h <;> rfl

/-- An entry's rule fills every slot of its group; that it fills no other is `respRule_group`. -/
theorem exists_rule_of_group (c : Config) {e : Entry} {slot : Slot} (h : entryGroup e = some slot.group) :
    ∃ r ∈ respRule c e, r.slot = slot := by
  obtain rfl := eq_getEntry_of_entryGroup h
  cases slot with
  | ser i => exact ⟨_, List.mem_map_of_mem (List.mem_finRange i), rfl⟩
  | _ => simp [Slot.group, Group.getEntry, respRule, slotRule]

theorem extractFields_read_of_group_ne {c : Config} {e : Entry} {g : Group} (hg : entryGroup e = some g)
    (region : Bytes) {slot : Slot} (hslot : slot.group ≠ g) : (extractFields (respRule c e) region).read slot = 0 := by
  refine extractFields_read_other _ _ _ fun r hr hrs => hslot ?_
  rw [← hrs]
  exact Option.some.inj ((respRule_group c e r hr).symm.trans hg)

/-- A record with a field for every rule of the entry, and zero outside the entry's group, is what the rule
extracts. -/
theorem extractFields_eq {c : Config} {e : Entry} {g : Group} {region : Bytes} {f : Fields}
    (hg : entryGroup e = some g)
    (hin : ∀ r ∈ respRule c e, fieldOf ⟨r.index, r.mask⟩ region = some (f.read r.slot))
    (hout : ∀ slot : Slot, slot.group ≠ g → f.read slot = 0) : extractFields (respRule c e) region = f := by
  refine fields_ext fun slot => ?_
  by_cases hslot : slot.group = g
  · obtain ⟨r, hr, rfl⟩ := exists_rule_of_group c (hslot ▸ hg)
    rw [extractFields_read_of_mem _ _ (respRule_slots_nodup c e) r hr]
    exact ((fieldOf_eq_some_iff _ _ _).mp (hin r hr)).2
  · rw [extractFields_read_of_group_ne hg region hslot, hout slot hslot]

/-! ### PARSE of an entry completes with one record of outputs -/

theorem exec_parse_completes (e : Entry) (s : State) : ∃ o, exec (parseOf e) s = complete o s := by
  obtain ⟨f, hf⟩ := Stateless.parseEntry e
  exact ⟨_, (exec_parseOf e s).trans (hf s)⟩

theorem complete_injective {o o' : Outputs} {s : State} (h : complete o s = complete o' s) : o = o' := by
  simpa [complete] using h

/-! ### PARSE of a get entry (43_catalog_demux.md R160) -/

/-- The outputs of PARSE of a get entry that ends with OK. -/
def getOutputs (c : Config) (e : Entry) (g : Group) (ctl opc : Byte) (data : Bytes) : Outputs :=
  { replyOutputs ctl opc data with fld := extractFields (respRule c e) (opc :: data), fv := g.mask }

section
variable {e : Entry} {g : Group} {s : State} {h : Bytes} {ctl opc : Byte} {data : Bytes}

theorem exec_parse_get_of_holdsReply (hg : entryGroup e = some g) (hr : HoldsReply s h ctl opc data) :
    exec (parseOf e) s =
      if echoBit s.cfg e && decide (opc ≠ wop s.cfg e) then raise .unexpectedOpcode s
      else if anyOutside (respRule s.cfg e) (opc :: data) then raise .payloadShort s
      else complete (getOutputs s.cfg e g ctl opc data) s := by
  rw [exec_parseOf, parseEntry_of_group hg, parseGet_of_ok e g (dcore_of_holdsReply hr)]
  rfl

theorem exec_parse_get_of_wrong_opcode (hg : entryGroup e = some g) (hr : HoldsReply s h ctl opc data)
    (hecho : echoBit s.cfg e = true) (hopc : opc ≠ wop s.cfg e) :
    exec (parseOf e) s = raise .unexpectedOpcode s := by
  rw [exec_parse_get_of_holdsReply hg hr, if_pos (by simp [hecho, hopc])]

theorem exec_parse_get_of_echo (hg : entryGroup e = some g) (hr : HoldsReply s h ctl opc data)
    (hecho : echoBit s.cfg e = true → opc = wop s.cfg e) :
    exec (parseOf e) s = if anyOutside (respRule s.cfg e) (opc :: data) then raise .payloadShort s
      else complete (getOutputs s.cfg e g ctl opc data) s := by
  rw [exec_parse_get_of_holdsReply hg hr, if_neg (by simpa using hecho)]

theorem exec_parse_get_of_short (hg : entryGroup e = some g) (hr : HoldsReply s h ctl opc data)
    (hecho : echoBit s.cfg e = true → opc = wop s.cfg e)
    (hshort : ∃ k ∈ (respRule s.cfg e).map SlotRule.index, data.length < k) :
    exec (parseOf e) s = raise .payloadShort s := by
  rw [exec_parse_get_of_echo hg hr hecho, if_pos ((anyOutside_region_iff _ _ _).mpr hshort)]

theorem exec_parse_get_of_inside (hg : entryGroup e = some g) (hr : HoldsReply s h ctl opc data)
    (hecho : echoBit s.cfg e = true → opc = wop s.cfg e)
    (hinside : ∀ k ∈ (respRule s.cfg e).map SlotRule.index, k ≤ data.length) :
    exec (parseOf e) s = complete (getOutputs s.cfg e g ctl opc data) s := by
  rw [exec_parse_get_of_echo hg hr hecho, (anyOutside_region_eq_false_iff _ _ _).mpr hinside,
    if_neg Bool.false_ne_true]

/-- PARSE of a get entry fails, or DIN holds a reply that passes every check. -/
theorem exec_parse_get_cases (hg : entryGroup e = some g) (s : State) :
    (∃ st, st ≠ .ok ∧ exec (parseOf e) s = raise st s) ∨
    (∃ h ctl opc data, HoldsReply s h ctl opc data ∧ (echoBit s.cfg e = true → opc = wop s.cfg e) ∧
      (∀ k ∈ (respRule s.cfg e).map SlotRule.index, k ≤ data.length) ∧
      exec (parseOf e) s = complete (getOutputs s.cfg e g ctl opc data) s) := by
  have hexec : exec (parseOf e) s = parseGet e g s := by rw [exec_parseOf, parseEntry_of_group hg]
  obtain ⟨st, hdcore, hs⟩ | ⟨r, -, -, -, hs⟩ | ⟨r, -, -, -, hs⟩ | ⟨r, hdcore, hecho, hany, -⟩ := parseGet_cases e g s
  · exact .inl ⟨st, ne_ok_of_dcore_error hdcore, hexec.trans hs⟩
  · exact .inl ⟨_, by decide, hexec.trans hs⟩
  · exact .inl ⟨_, by decide, hexec.trans hs⟩
  · obtain ⟨h, hr⟩ := holdsReply_of_dcore hdcore
    have hinside := (anyOutside_region_eq_false_iff _ _ _).mp hany
    exact .inr ⟨h, r.ctl, r.opc, r.data, hr, hecho, hinside, exec_parse_get_of_inside hg hr hecho hinside⟩

/-- PARSE of a get entry, on a reply that holds every byte its rule reads, answers OK with these bytes, masked. -/
theorem exec_parse_get_of_fields {f : Fields} (hg : entryGroup e = some g) (hr : HoldsReply s h ctl opc data)
    (hecho : echoBit s.cfg e = true → opc = wop s.cfg e)
    (hin : ∀ r ∈ respRule s.cfg e, fieldOf ⟨r.index, r.mask⟩ (opc :: data) = some (f.read r.slot))
    (hout : ∀ slot : Slot, slot.group ≠ g → f.read slot = 0) :
    exec (parseOf e) s = complete { replyOutputs ctl opc data with fld := f, fv := g.mask } s := by
  have hinside : ∀ k ∈ (respRule s.cfg e).map SlotRule.index, k ≤ data.length := by
    refine List.forall_mem_map.mpr fun r hrule => Nat.lt_succ_iff.mp ?_
    exact ((fieldOf_eq_some_iff _ _ _).mp (hin r hrule)).1
  rw [exec_parse_get_of_inside hg hr hecho hinside, getOutputs, extractFields_eq hg hin hout]

/-- An entry whose rule has one slot needs no record but the cleared one with that slot written. -/
theorem exec_parse_get_of_single {slot : Slot} {fr : FieldRule} {v : Byte}
    (hg : entryGroup e = some slot.group) (hrule : respRule s.cfg e = [slotRule slot fr])
    (hr : HoldsReply s h ctl opc data) (hecho : echoBit s.cfg e = true → opc = wop s.cfg e)
    (hv : fieldOf fr (opc :: data) = some v) :
    exec (parseOf e) s = complete { replyOutputs ctl opc data with
      fld := Fields.cleared.write slot v, fv := slot.group.mask } s := by
  refine exec_parse_get_of_fields hg hr hecho ?_ fun other hother => ?_
  · rw [hrule, List.forall_mem_singleton, read_write, slotRule, if_pos rfl]
    exact hv
  · have hne : slot ≠ other := fun heq => hother (heq ▸ rfl)
    rw [read_write, if_neg hne, read_cleared]

/-! ### PARSE of a set entry (43_catalog_demux.md R161) -/

theorem exec_parse_set_eq_decode (hset : entryGroup e = none) (ent : BitVec 4) (s : State) :
    exec (parseOf e) s = exec (.decode ent) s := by
  rw [exec_parseOf, parseEntry_of_no_group hset, exec_decode, execDecode_eq_parseSet]

theorem exec_parse_set_of_holdsReply (hset : entryGroup e = none) (hr : HoldsReply s h ctl opc data) :
    exec (parseOf e) s = complete (replyOutputs ctl opc data) s := by
  rw [exec_parse_set_eq_decode hset 0, exec_decode_of_holdsReply 0 hr]

/-- PARSE of a set entry completes without a field, whether or not the frame is valid. -/
theorem exec_parse_set_no_field (hset : entryGroup e = none) (s : State) :
    ∃ o : Outputs, exec (parseOf e) s = complete o s ∧ o.fv = 0 ∧ ∀ slot, o.fld.read slot = 0 := by
  rw [exec_parseOf, parseEntry_of_no_group hset]
  obtain ⟨st, -, hs⟩ | ⟨r, -, hs⟩ := parseSet_cases s
  · exact ⟨Outputs.cleared st, hs, rfl, read_cleared⟩
  · exact ⟨r.outputs, hs, rfl, read_cleared⟩

end

/-! ### The picture format's rule (43_catalog_demux.md R172, 70_reset_and_hazards.md R233) -/

theorem pfmtRule_of_admitted {c : Config} (h : c.admitted = true) : c.resp.pfmt = ⟨1, 0x03⟩ := by
  simp only [Config.admitted, Config.pfmtRuleFixed, Bool.and_eq_true, decide_eq_true_eq] at h
  exact h.2

theorem and_three_toNat (d : Byte) : (d &&& 0x03).toNat = d.toNat % 4 := by
  rw [BitVec.toNat_and]
  exact Nat.and_two_pow_sub_one_eq_mod d.toNat 2

/-! ### The looped-back request of an entry (43_catalog_demux.md R180) -/

/-- LOOP of a request frame is the reply frame with the entry's own opcode and the request's parameters. -/
theorem loopFrame_requestFrame (c : Config) (e : Entry) (p0 p1 : Byte) :
    loopFrame (requestFrame c e p0 p1) =
      replyFrame [0xA6, 0x01, 0x00, 0x00] cmdByte (wop c e) ((bodyOf c e p0 p1).drop 3) := by
  cases e <;> exact loopFrame_framed _ _ rfl

theorem holdsReply_loopback {s : State} (e : Entry) (hadm : s.cfg.admitted = true) :
    HoldsReply (s.withDin (loopFrame (requestFrame s.cfg e s.ports.p0 s.ports.p1))) [0xA6, 0x01, 0x00, 0x00]
      cmdByte (wop s.cfg e) ((bodyOf s.cfg e s.ports.p0 s.ports.p1).drop 3) := by
  have hlen : ((bodyOf s.cfg e s.ports.p0 s.ports.p1).drop 3).length ≤ 5 := by
    cases e <;> simp [bodyOf, entryKind]
  exact ⟨rfl, by omega, fits_of_admitted hadm (by omega), loopFrame_requestFrame _ _ _ _⟩

/-- The one parameter of a get request is 0. -/
theorem holdsReply_loopback_get {s : State} {e : Entry} (hkind : entryKind e = .get) (hadm : s.cfg.admitted = true) :
    HoldsReply (s.withDin (loopFrame (requestFrame s.cfg e s.ports.p0 s.ports.p1))) [0xA6, 0x01, 0x00, 0x00]
      cmdByte (wop s.cfg e) [0x00] := by
  have hr := holdsReply_loopback e hadm
  rw [bodyOf_get hkind] at hr
  exact hr

/-- The response rules are those of every configuration with the same RESP_RULE. -/
theorem respRule_congr {c c' : Config} (h : c.resp = c'.resp) (e : Entry) : respRule c e = respRule c' e := by
  cases e <;> simp only [respRule, h]

section
variable {s : State} {h : Bytes} {ctl : Byte} {e : Entry} {g : Group}

/-- With the default rules the single-slot gets read the first data byte, which is 0. -/
theorem exec_parse_get_of_zero (he : e ∈ [Entry.pwrGet, .volGet, .pfmtGet, .tempGet, .pipGet])
    (hg : entryGroup e = some g) (hresp : s.cfg.resp = .specDefault)
    (hr : HoldsReply s h ctl (wop s.cfg e) [0x00]) :
    exec (parseOf e) s =
      complete { replyOutputs ctl (wop s.cfg e) [0x00] with fld := Fields.cleared, fv := g.mask } s := by
  have hindex : ∀ e ∈ [Entry.pwrGet, .volGet, .pfmtGet, .tempGet, .pipGet], ∀ r ∈ respRule Config.cfg0 e,
      r.index = 1 := by decide
  refine exec_parse_get_of_fields hg hr (fun _ => rfl) (fun r hrule => ?_) fun slot _ => read_cleared slot
  rw [respRule_congr (c' := Config.cfg0) hresp] at hrule
  rw [fieldOf_eq_some_iff, hindex e he r hrule, read_cleared]
  simp [byteAt]

/-- With the default rules the other gets read past the first data byte. -/
theorem exec_parse_get_of_one_byte (he : e ∈ [Entry.srcGet, .vidGet, .serGet])
    (hg : entryGroup e = some g) (hresp : s.cfg.resp = .specDefault)
    (hr : HoldsReply s h ctl (wop s.cfg e) [0x00]) : exec (parseOf e) s = raise .payloadShort s := by
  have hpast : ∀ e ∈ [Entry.srcGet, .vidGet, .serGet],
      ∃ k ∈ (respRule Config.cfg0 e).map SlotRule.index, 1 < k := by decide
  refine exec_parse_get_of_short hg hr (fun _ => rfl) ?_
  rw [respRule_congr (c' := Config.cfg0) hresp]
  exact hpast e he

end

/-! ### An exchange of the host (60_exceptions.md R218) -/

theorem run_one (s : State) : run 1 s = step s := by
  simp only [run]
  cases step s <;> rfl

/-- The state in which an exchange runs its PARSE: BUILD has given the request frame and changed nothing else. -/
def State.atParse (s : State) (e : Entry) (p : Ports) (reply : Bytes) (rest : List HostEvent) : State :=
  { s with
    ports := { p with req := reqWord e.ent 0x7, din := reply }
    outputs := some { Outputs.ok with dout := requestFrame s.cfg e p.p0 p.p1 }
    stream := rest }

/-- An exchange ends with the outputs of its PARSE, and leaves CFG, ACC and the events after it. -/
theorem run_exchange {s : State} {e : Entry} {p : Ports} {reply : Bytes} {rest : List HostEvent} {o : Outputs}
    (hadm : s.cfg.admitted = true) (hs : s.stream = exchange e p reply ++ rest)
    (hparse : exec (parseOf e) (s.atParse e p reply rest) = complete o (s.atParse e p reply rest)) :
    ∃ t, run 2 s = .next t ∧ t.outputs = some o ∧ t.cfg = s.cfg ∧ t.acc = s.acc ∧ t.stream = rest := by
  have hbuild := step_present_of_ok hadm hs (encode_buildOf e ▸ decode_encode (buildOf e))
  rw [exec_buildOf, buildEntry_eq] at hbuild
  refine ⟨{ s.atParse e p reply rest with outputs := some o }, ?_, rfl, rfl, rfl, rfl⟩
  rw [run_succ 1 hbuild, run_one]
  refine Eq.trans (step_present_of_ok (rest := rest) hadm ?_ (encode_parseOf e ▸ decode_encode (parseOf e))) hparse
  rfl

theorem holdsReply_atParse {s : State} {p : Ports} {h data : Bytes} {ctl opc : Byte} (e : Entry)
    (rest : List HostEvent) (hadm : s.cfg.admitted = true) (hh : h.length = 4) (hdata : data.length ≤ 253) :
    HoldsReply (s.atParse e p (replyFrame h ctl opc data) rest) h ctl opc data :=
  ⟨hh, hdata, fits_of_admitted hadm (by omega), rfl⟩

end Sys2Proof.Machine
end

section
/-! PROOFS. The statements of 43_catalog_demux.md. -/

namespace Sys2Proof.Machine

/-- Settles O45: each of the five entries has one slot, read by the rule named. -/
theorem parseSingleSlotGets : Obligations.ParseSingleSlotGets := by
  intro s h ctl opc data v hr
  refine ⟨fun hecho hv => ?_, fun hecho hv => ?_, fun hecho hv => ?_, fun hecho hv => ?_, fun hecho hv => ?_⟩
  · exact exec_parse_get_of_single (e := .pwrGet) (slot := .pwr) rfl rfl hr hecho hv
  · exact exec_parse_get_of_single (e := .volGet) (slot := .vol) rfl rfl hr hecho hv
  · exact exec_parse_get_of_single (e := .pfmtGet) (slot := .pfmt) rfl rfl hr hecho hv
  · exact exec_parse_get_of_single (e := .tempGet) (slot := .temp) rfl rfl hr hecho hv
  · exact exec_parse_get_of_single (e := .pipGet) (slot := .pip) rfl rfl hr hecho hv

/-- Settles O46: the record named holds what each rule reads, and nothing outside the group. -/
theorem parseSourceAndVideoGets : Obligations.ParseSourceAndVideoGets := by
  intro s h ctl opc data u v w hr
  refine ⟨fun hecho hsrcT hsrcN => ?_, fun hecho hbri hcon hshp => ?_⟩
  · refine exec_parse_get_of_fields (e := .srcGet) (g := .source) rfl hr hecho ?_ fun slot hslot => ?_
    · simpa [respRule, slotRule, Fields.read] using ⟨hsrcT, hsrcN⟩
    · cases slot with
      | srcT | srcN => exact absurd rfl hslot
      | _ => simp [Fields.read]
  · refine exec_parse_get_of_fields (e := .vidGet) (g := .video) rfl hr hecho ?_ fun slot hslot => ?_
    · simpa [respRule, slotRule, Fields.read] using ⟨hbri, hcon, hshp⟩
    · cases slot with
      | bri | con | shp => exact absurd rfl hslot
      | _ => simp [Fields.read]

/-- Settles O47: the record named holds what each of the 14 rules reads, and nothing outside the group. -/
theorem parseSerialNumberGet : Obligations.ParseSerialNumberGet := by
  intro s h ctl opc data v hr hecho hv
  refine exec_parse_get_of_fields (e := .serGet) (g := .serialNumber) rfl hr hecho ?_ fun slot hslot => ?_
  · exact List.forall_mem_map.mpr fun i _ => hv i
  · cases slot with
    | ser i => exact absurd rfl hslot
    | _ => simp [Fields.read]

/-- Settles O48: an admitted configuration reads the picture format from index 1, masked with 0x03. -/
theorem pictureFormatIsLowTwoBits : Obligations.PictureFormatIsLowTwoBits := by
  intro s h ctl opc data hadm hr hecho
  have hrule := pfmtRule_of_admitted hadm
  refine ⟨decode_encode .parsePfmtGet, fun hdata => ?_, fun d rest hdata => ?_⟩
  · refine exec_parse_get_of_short (e := .pfmtGet) rfl hr hecho ⟨1, ?_, by simp [hdata]⟩
    simp [respRule, slotRule, hrule]
  · have hv : fieldOf s.cfg.resp.pfmt (opc :: data) = some (d &&& 0x03) := by
      rw [hrule, hdata]
      rfl
    exact ⟨_, exec_parse_get_of_single (e := .pfmtGet) (slot := .pfmt) rfl rfl hr hecho hv, rfl, rfl, rfl,
      and_three_toNat d⟩

/-- Settles O49: PARSE of a set entry is DECODE. -/
theorem parseSetsWriteNoField : Obligations.ParseSetsWriteNoField := by
  intro s
  change ∀ row ∈ [Entry.pwrSet, .srcSet, .volSet, .pfmtSet].map (fun e => (parseOf e, encode (parseOf e))), _
  rw [List.forall_mem_map]
  intro e he
  have hset : entryGroup e = none := by
    revert e
    decide
  obtain ⟨o, ho, hfv, hfld⟩ := exec_parse_set_no_field hset s
  exact ⟨decode_encode (parseOf e),
    ⟨o, ho, hfv, hfld, fun ent => (exec_parse_set_eq_decode hset ent s).symm.trans ho⟩,
    fun h ctl opc data hr => exec_parse_set_of_holdsReply hset hr⟩

/-- Settles O50: the echo check raises UNEXPECTED_OPCODE, and the host takes nothing from a failure. -/
theorem wrongOpcodeIsUnexpected : Obligations.WrongOpcodeIsUnexpected := by
  intro s h ctl opc data hr row hrow hecho hopc
  obtain ⟨e, g, hg, rfl⟩ := exists_get_of_mem_getRows hrow
  exact ⟨_, exec_parse_get_of_wrong_opcode hg hr hecho hopc, rfl, rfl, rfl, read_cleared,
    fun n => if_pos (by decide)⟩

/-- Settles O51: an index past the data is outside the response region. -/
theorem shortReplyIsPayloadShort : Obligations.ShortReplyIsPayloadShort := by
  intro s h ctl opc data hr row hrow hecho hshort
  obtain ⟨e, g, hg, rfl⟩ := exists_get_of_mem_getRows hrow
  exact exec_parse_get_of_short hg hr hecho hshort

/-- Settles O52: PARSE of a get entry fails, or DIN holds a reply that passes every check. -/
theorem parseGetAcceptsExactly : Obligations.ParseGetAcceptsExactly := by
  intro s row hrow
  obtain ⟨e, g, hg, rfl⟩ := exists_get_of_mem_getRows hrow
  constructor
  · rintro ⟨o, ho, hok⟩
    obtain ⟨st, hst, hs⟩ | ⟨h, ctl, opc, data, hr, hecho, hinside, -⟩ := exec_parse_get_cases hg s
    · obtain rfl : o = Outputs.cleared st := by simpa using (raise_eq_next_iff _ _ _).mp (hs.symm.trans ho)
      exact absurd hok hst
    · exact ⟨h, ctl, opc, data, hr, hecho, hinside⟩
  · rintro ⟨h, ctl, opc, data, hr, hecho, hinside⟩
    exact ⟨_, exec_parse_get_of_inside hg hr hecho hinside, rfl⟩

/-- Settles O53: a failure and a set entry give no field, an accepted reply what the rules of the group extract. -/
theorem fieldsAllOrNothing : Obligations.FieldsAllOrNothing := by
  intro e s t o h ho
  cases hg : entryGroup e with
  | none =>
    obtain ⟨o', hs, hfv, hfld⟩ := exec_parse_set_no_field hg s
    obtain rfl := (complete_eq_next_iff _ _ _).mp (hs.symm.trans h)
    obtain rfl := Option.some.inj ho
    exact .inl ⟨hfv, hfld⟩
  | some g =>
    obtain ⟨st, -, hs⟩ | ⟨-, ctl, opc, data, -, -, hinside, hs⟩ := exec_parse_get_cases hg s
    · obtain rfl := (raise_eq_next_iff _ _ _).mp (hs.symm.trans h)
      obtain rfl := Option.some.inj ho
      exact .inl ⟨rfl, read_cleared⟩
    · obtain rfl := (complete_eq_next_iff _ _ _).mp (hs.symm.trans h)
      obtain rfl := Option.some.inj ho
      refine .inr ⟨g, rfl, rfl, rfl, fun slot hslot => ?_, fun slot => extractFields_read_of_group_ne hg _⟩
      obtain ⟨r, hr, rfl⟩ := exists_rule_of_group s.cfg (hslot ▸ hg)
      have hindex : r.index < (opc :: data).length := Nat.lt_succ_iff.mpr (List.forall_mem_map.mp hinside r hr)
      have hread := extractFields_read_of_mem _ (opc :: data) (respRule_slots_nodup s.cfg e) r hr
      exact ⟨r, hr, rfl, (fieldOf_eq_some_iff _ _ _).mpr ⟨hindex, hread.symm⟩⟩

/-- Settles O54: LOOP makes the request a reply with the entry's own opcode and the request's parameters, [00] for a
get. -/
theorem loopbackThroughParse : Obligations.LoopbackThroughParse := by
  intro e s hadm hresp
  have hsingle : ∀ e ∈ [Entry.pwrGet, .volGet, .pfmtGet, .tempGet, .pipGet], entryKind e = .get := by decide
  have hseveral : ∀ e ∈ [Entry.srcGet, .vidGet, .serGet], entryKind e = .get := by decide
  have hset : ∀ e ∈ [Entry.pwrSet, .srcSet, .volSet, .pfmtSet], entryGroup e = none := by decide
  obtain ⟨o, ho⟩ := exec_parse_completes e (s.withDin (loopFrame (requestFrame s.cfg e s.ports.p0 s.ports.p1)))
  refine ⟨_, (exec_buildOf e s).trans (buildEntry_eq e s), o, ho, fun he => ?_, fun he => ?_, fun he => ?_⟩
  · obtain ⟨g, hg⟩ := exists_group_of_get (hsingle e he)
    have hr := holdsReply_loopback_get (hsingle e he) hadm
    obtain rfl := complete_injective (ho.symm.trans (exec_parse_get_of_zero he hg hresp hr))
    exact ⟨rfl, rfl, by rw [hg]; rfl, read_cleared⟩
  · obtain ⟨g, hg⟩ := exists_group_of_get (hseveral e he)
    have hr := holdsReply_loopback_get (hseveral e he) hadm
    obtain rfl := complete_injective (ho.symm.trans (exec_parse_get_of_one_byte he hg hresp hr))
    rfl
  · have hr := holdsReply_loopback e hadm
    obtain rfl := complete_injective (ho.symm.trans (exec_parse_set_of_holdsReply (hset e he) hr))
    exact ⟨rfl, rfl⟩

/-- Settles O55: each exchange ends with what its PARSE makes of the reply, the first one a set, the second a get
whose rule reads the one data byte. -/
theorem setThenGetGivesValue : Obligations.SetThenGetGivesValue := by
  intro s p q rest h h' ctl ctl' opc v ack hadm hresp hh hh' hack hs
  rw [List.append_assoc] at hs
  obtain ⟨t, ht, hto, htcfg, htacc, htstream⟩ := run_exchange hadm hs
    (exec_parse_set_of_holdsReply rfl (holdsReply_atParse .pwrSet _ hadm hh hack))
  rw [← htcfg] at hadm hresp htstream
  have hv : fieldOf t.cfg.resp.pwr [t.cfg.opPwrGet, v] = some v := by
    rw [hresp, fieldOf_eq_some_iff]
    exact ⟨Nat.one_lt_two, BitVec.and_allOnes⟩
  obtain ⟨u, hu, huo, -, huacc, hustream⟩ := run_exchange hadm htstream
    (exec_parse_get_of_single (e := .pwrGet) (slot := .pwr) rfl rfl
      (holdsReply_atParse .pwrGet rest hadm hh' (Nat.le_of_ble_eq_true rfl)) (fun _ => rfl) hv)
  exact ⟨t, u, _, _, ht, hu, hto, huo, rfl, rfl, read_cleared, rfl, rfl, rfl, huacc.trans htacc, hustream⟩

end Sys2Proof.Machine
end

section
/-! PROOFS. The statuses an instruction can fail with, what every instruction can answer said once, and the outputs
that are lawful. -/

namespace Sys2Proof.Machine

/-! ### The table of failures (60_exceptions.md R207) -/

/-- The statuses DCORE raises. -/
def frameFailures : List Status := [.tooLong, .empty, .truncated, .checksumMismatch, .lengthMismatch]

/-- The statuses other than OK that PARSE of an entry can end with. -/
def parseFailures (c : Config) (e : Entry) : List Status :=
  match entryGroup e with
  | none => frameFailures
  | some _ => frameFailures ++ (if echoBit c e then [.unexpectedOpcode] else []) ++ [.payloadShort]

/-- The statuses other than OK that an instruction can end with. -/
def failures (c : Config) (i : Instr) : List Status :=
  match i with
  | .xfold _ | .csum _ | .verify _ | .encode _ => [.tooLong]
  | .decode _ => frameFailures
  | .parsePwrGet => parseFailures c .pwrGet
  | .parsePwrSet => parseFailures c .pwrSet
  | .parseSrcGet => parseFailures c .srcGet
  | .parseSrcSet => parseFailures c .srcSet
  | .parseVolGet => parseFailures c .volGet
  | .parseVolSet => parseFailures c .volSet
  | .parsePfmtGet => parseFailures c .pfmtGet
  | .parsePfmtSet => parseFailures c .pfmtSet
  | .parseVidGet => parseFailures c .vidGet
  | .parseTempGet => parseFailures c .tempGet
  | .parsePipGet => parseFailures c .pipGet
  | .parseSerGet => parseFailures c .serGet
  | _ => []

section
variable {c : Config} {e : Entry} {g : Group} {st : Status}

theorem mem_frameFailures_of_dcore {d : Bytes} (h : dcore c d = .error st) : st ∈ frameFailures := by
  obtain ⟨-, rfl⟩ | ⟨-, -, rfl⟩ | ⟨-, -, -, rfl⟩ | ⟨-, -, -, rfl⟩ | ⟨-, -, -, -, rfl⟩ :=
    (dcore_eq_error_iff c d st).mp h <;> decide

theorem failures_buildOf (c : Config) (e : Entry) : failures c (buildOf e) = [] := by
  cases e <;> rfl

theorem failures_parseOf (c : Config) (e : Entry) : failures c (parseOf e) = parseFailures c e := by
  cases e <;> rfl

theorem failures_parseOf_set (hg : entryGroup e = none) : failures c (parseOf e) = frameFailures := by
  simp only [failures_parseOf, parseFailures, hg]

theorem mem_failures_parseOf_get (hg : entryGroup e = some g) :
    st ∈ failures c (parseOf e) ↔
      st ∈ frameFailures ∨ st = .unexpectedOpcode ∧ echoBit c e = true ∨ st = .payloadShort := by
  simp only [failures_parseOf, parseFailures, hg]
  cases echoBit c e <;> simp

/-- ACLR and AFEED never fail. -/
theorem not_touchesAcc_of_mem_failures {i : Instr} (h : st ∈ failures c i) : ¬ touchesAcc i := by
  rintro ⟨ent, rfl | rfl⟩ <;> simp [failures] at h

end

/-! ### What an instruction can answer -/

/-- The outputs an instruction can answer: a failure of its table with nothing but its status, a result on RB, RF or
DOUT, the parts of the reply on DIN, or these with the fields of the entry's group. -/
inductive Answer (s : State) (i : Instr) : Outputs → Prop where
  | failed {st : Status} (hst : st ∈ failures s.cfg i) : Answer s i (Outputs.cleared st)
  | computed (rb : Byte) (rf : Bool) (dout : Bytes) :
      Answer s i { Outputs.ok with rb := rb, rf := rf, dout := dout }
  | decoded {r : Reply} (hr : dcore s.cfg s.ports.din = .ok r) : Answer s i r.outputs
  | parsed {e : Entry} {g : Group} {r : Reply} (hi : i = parseOf e) (hg : entryGroup e = some g)
      (hr : dcore s.cfg s.ports.din = .ok r) :
      Answer s i { r.outputs with fld := extractFields (respRule s.cfg e) r.region, fv := g.mask }

/-- An operation that tests a length against MAX_LEN and then computes a result. -/
theorem answer_of_lengthTest {i : Instr} {s : State} {n : Nat} {rb : Byte} {rf : Bool} {dout : Bytes}
    (hi : .tooLong ∈ failures s.cfg i)
    (h : exec i s = if exceedsMax s.cfg n then raise .tooLong s
      else complete { Outputs.ok with rb := rb, rf := rf, dout := dout } s) :
    ∃ o, exec i s = complete o s ∧ Answer s i o := by
  cases hmax : exceedsMax s.cfg n
  · exact ⟨_, h.trans (by rw [hmax]; rfl), .computed rb rf dout⟩
  · exact ⟨Outputs.cleared .tooLong, h.trans (by rw [hmax]; rfl), .failed hi⟩

/-- DECODE and PARSE of a set entry. -/
theorem answer_of_parseSet {i : Instr} {s : State} (hi : failures s.cfg i = frameFailures)
    (h : exec i s = parseSet s) : ∃ o, exec i s = complete o s ∧ Answer s i o := by
  obtain ⟨st, hdcore, hs⟩ | ⟨r, hdcore, hs⟩ := parseSet_cases s
  · exact ⟨_, h.trans hs, .failed (hi ▸ mem_frameFailures_of_dcore hdcore)⟩
  · exact ⟨_, h.trans hs, .decoded hdcore⟩

theorem answer_of_parseGet {e : Entry} {g : Group} (hg : entryGroup e = some g) (s : State) :
    ∃ o, exec (parseOf e) s = complete o s ∧ Answer s (parseOf e) o := by
  have hexec : exec (parseOf e) s = parseGet e g s := by rw [exec_parseOf, parseEntry_of_group hg]
  obtain ⟨st, hdcore, hs⟩ | ⟨r, -, hecho, -, hs⟩ | ⟨r, -, -, -, hs⟩ | ⟨r, hdcore, -, -, hs⟩ := parseGet_cases e g s
  · exact ⟨_, hexec.trans hs, .failed ((mem_failures_parseOf_get hg).mpr (.inl (mem_frameFailures_of_dcore hdcore)))⟩
  · exact ⟨_, hexec.trans hs, .failed ((mem_failures_parseOf_get hg).mpr (.inr (.inl ⟨rfl, hecho⟩)))⟩
  · exact ⟨_, hexec.trans hs, .failed ((mem_failures_parseOf_get hg).mpr (.inr (.inr rfl)))⟩
  · exact ⟨_, hexec.trans hs, .parsed rfl hg hdcore⟩

theorem exec_stateless_answer {i : Instr} (s : State) (hi : ¬ touchesAcc i) :
    ∃ o, exec i s = complete o s ∧ Answer s i o := by
  cases i using instr_cases with
  | xfold ent => exact answer_of_lengthTest (List.mem_singleton_self _) (exec_xfold ent s)
  | csum ent => exact answer_of_lengthTest (List.mem_singleton_self _) (exec_csum ent s)
  | verify ent => exact answer_of_lengthTest (List.mem_singleton_self _) (exec_verify ent s)
  | encode ent => exact answer_of_lengthTest (List.mem_singleton_self _) (exec_encode ent s)
  | decode ent => exact answer_of_parseSet rfl (exec_decode ent s)
  | aclr ent => exact absurd (touchesAcc_aclr ent) hi
  | afeed ent => exact absurd (touchesAcc_afeed ent) hi
  | build e => exact ⟨_, exec_buildOf e s, .computed _ _ _⟩
  | parse e =>
    cases hg : entryGroup e with
    | none =>
      exact answer_of_parseSet (failures_parseOf_set hg) ((exec_parseOf e s).trans (parseEntry_of_no_group hg s))
    | some g => exact answer_of_parseGet hg s

section
variable {i : Instr} {s t : State} {o : Outputs}

/-- Whatever outputs an instruction gives are one of its answers. -/
theorem exec_next_answer (h : exec i s = .next t) (ho : t.outputs = some o) : Answer s i o := by
  by_cases hi : touchesAcc i
  · obtain ⟨ent, rfl | rfl⟩ := hi
    · obtain rfl := Host.Outcome.next.inj ((exec_aclr ent s).symm.trans h)
      obtain rfl := Option.some.inj ho
      exact .computed _ _ _
    · obtain rfl := Host.Outcome.next.inj ((exec_afeed ent s).symm.trans h)
      obtain rfl := Option.some.inj ho
      exact .computed _ _ _
  · obtain ⟨o', hs, hanswer⟩ := exec_stateless_answer s hi
    obtain rfl := (complete_eq_next_iff _ _ _).mp (hs.symm.trans h)
    obtain rfl := Option.some.inj ho
    exact hanswer

/-- An answer has status OK, or is a failure of the instruction's table and shows nothing else. -/
theorem Answer.st_cases (h : Answer s i o) :
    o.st = .ok ∨ o = Outputs.cleared o.st ∧ o.st ∈ failures s.cfg i := by
  cases h with
  | failed hst => exact .inr ⟨rfl, hst⟩
  | computed | decoded | parsed => exact .inl rfl

theorem Answer.st_mem (h : Answer s i o) : o.st ∈ .ok :: failures s.cfg i :=
  List.mem_cons.mpr (h.st_cases.imp_right And.right)

/-- Only PARSE of an entry with a group answers with an FV bit. -/
theorem Answer.exists_group_of_fv (h : Answer s i o) (hfv : o.fv ≠ 0) :
    o.st = .ok ∧ ∃ e g, i = parseOf e ∧ entryGroup e = some g := by
  cases h with
  | failed | computed | decoded => exact absurd rfl hfv
  | parsed hi hg _ => exact ⟨rfl, _, _, hi, hg⟩

end

/-! ### Lawful outputs -/

theorem cleared_lawful (st : Status) : (Outputs.cleared st).Lawful where
  classOfStatus := rfl
  clearedOnFailure _ := rfl
  oneGroup := .inl rfl
  slotsInGroup slot _ := read_cleared slot
  pictureFormatTwoBits := by simp
  lengthCountsData h := absurd rfl h
  replyOutputsTogether _ := ⟨rfl, rfl, rfl⟩

theorem computed_lawful (rb : Byte) (rf : Bool) (dout : Bytes) :
    { Outputs.ok with rb := rb, rf := rf, dout := dout }.Lawful where
  classOfStatus := rfl
  clearedOnFailure h := absurd rfl h
  oneGroup := .inl rfl
  slotsInGroup slot _ := read_cleared slot
  pictureFormatTwoBits := by simp
  lengthCountsData h := absurd rfl h
  replyOutputsTogether _ := ⟨rfl, rfl, rfl⟩

/-- The length byte of a reply counts the data, the command byte and the opcode (41_frame_codec.md R123). -/
theorem len_toNat_of_dcore {c : Config} {d : Bytes} {r : Reply} (hr : dcore c d = .ok r) :
    r.len.toNat = r.data.length + 2 := by
  obtain ⟨-, -, hdata, -, hlen, -⟩ := replyFrame_of_dcore hr
  rw [hlen, BitVec.toNat_ofNat]
  omega

/-- The parts of a reply are lawful with every field record that keeps to the group FV names. -/
theorem reply_lawful {c : Config} {d : Bytes} {r : Reply} {f : Fields} {fv : BitVec 8} (hr : dcore c d = .ok r)
    (hgroup : fv = 0 ∨ ∃ g : Group, fv = g.mask) (hslots : ∀ slot : Slot, fv ≠ slot.group.mask → f.read slot = 0)
    (hpfmt : f.pfmt.toNat < 4) : { r.outputs with fld := f, fv := fv }.Lawful where
  classOfStatus := rfl
  clearedOnFailure h := absurd rfl h
  oneGroup := hgroup
  slotsInGroup := hslots
  pictureFormatTwoBits := hpfmt
  lengthCountsData _ := len_toNat_of_dcore hr
  replyOutputsTogether (h : r.len = 0) := by
    have hlen := len_toNat_of_dcore hr
    rw [h] at hlen
    simp at hlen

/-- The picture format an admitted configuration extracts has two bits (43_catalog_demux.md R172). -/
theorem extractFields_pfmt_lt {c : Config} {e : Entry} {g : Group} (hadm : c.admitted = true)
    (hg : entryGroup e = some g) (region : Bytes) : (extractFields (respRule c e) region).pfmt.toNat < 4 := by
  change ((extractFields (respRule c e) region).read Slot.pfmt).toNat < 4
  by_cases hgroup : Slot.pfmt.group = g
  · obtain rfl : e = .pfmtGet := eq_getEntry_of_entryGroup (hgroup ▸ hg)
    have hrule : ⟨.pfmt, 1, 0x03⟩ ∈ respRule c .pfmtGet := by
      simp [respRule, slotRule, pfmtRule_of_admitted hadm]
    calc ((extractFields (respRule c .pfmtGet) region).read .pfmt).toNat
      _ = (byteAt region 1 &&& 0x03).toNat :=
        congrArg BitVec.toNat (extractFields_read_of_mem _ region (respRule_slots_nodup c _) _ hrule)
      _ = (byteAt region 1).toNat % 4 := and_three_toNat _
      _ < 4 := Nat.mod_lt _ (Nat.zero_lt_succ 3)
  · rw [extractFields_read_of_group_ne hg region hgroup]
    decide

theorem Answer.lawful {s : State} {i : Instr} {o : Outputs} (h : Answer s i o) (hadm : s.cfg.admitted = true) :
    o.Lawful := by
  cases h with
  | failed => exact cleared_lawful _
  | computed rb rf dout => exact computed_lawful rb rf dout
  | decoded hr => exact reply_lawful hr (.inl rfl) (fun slot _ => read_cleared slot) (by simp)
  | parsed _ hg hr =>
    refine reply_lawful hr (.inr ⟨_, rfl⟩) (fun slot hslot => ?_) (extractFields_pfmt_lt hadm hg _)
    exact extractFields_read_of_group_ne hg _ fun hgroup => hslot (hgroup ▸ rfl)

theorem admitted_of_step_next {s t : State} (h : step s = .next t) : s.cfg.admitted = true := by
  by_contra hadm
  rw [step_of_not_admitted (Bool.eq_false_of_not_eq_true hadm)] at h
  cases h

/-! ### The host's snapshot (60_exceptions.md R221) -/

theorem zero_ne_mask (g : Group) : 0 ≠ g.mask := by
  cases g <;> decide

theorem update_of_no_group {o : Outputs} (n : Snapshot) (h : o.fv = 0) : n.update o = n := by
  simp only [Snapshot.update, h, zero_ne_mask, if_false, ite_self]

theorem getRow_mem_getRows {e : Entry} {g : Group} (c : Config) (hg : entryGroup e = some g) :
    getRow c e ∈ getRows c := by
  rw [getRows_eq]
  refine List.mem_map_of_mem ?_
  obtain rfl := eq_getEntry_of_entryGroup hg
  cases g <;> decide

end Sys2Proof.Machine
end

section
/-! PROOFS. The statements of 60_exceptions.md. -/

namespace Sys2Proof.Machine

/-- Settles O14: a reset leaves no outputs, and what a transaction gives is an answer or a cleared record. -/
theorem stepKeepsInvariant : Obligations.StepKeepsInvariant := by
  intro s t _ h o ho
  obtain ⟨rest, -, rfl⟩ | ⟨p, rest, i, -, -, hexec⟩ | ⟨p, rest, e, -, -, rfl⟩ := step_next_cases h
  · cases ho
  · have hadm := admitted_of_step_next h
    exact (exec_next_answer hexec ho).lawful hadm
  · obtain rfl := Option.some.inj ho
    exact cleared_lawful _

/-- Settles O16, by the frame of every instruction. -/
theorem everyInstructionCompletes : Obligations.EveryInstructionCompletes :=
  exec_changes_only_acc_outputs

/-- Settles O22: a failure is a cleared record, and an instruction that can fail is stateless. -/
theorem failureShowsOnlyStatus : Obligations.FailureShowsOnlyStatus := by
  intro i s t o h ho hst
  obtain ⟨hcleared, hmem⟩ := (exec_next_answer h ho).st_cases.resolve_left hst
  have hframe := (exec_stateless (not_touchesAcc_of_mem_failures hmem)).changes_only_outputs h
  rw [ho] at hframe
  rw [hcleared]
  exact ⟨hcleared ▸ hframe, rfl, rfl, rfl, rfl, rfl, rfl, rfl, read_cleared, rfl⟩

/-- Settles O23: the status is OK or one of the instruction's table of failures. -/
theorem statusesByOperation : Obligations.StatusesByOperation := by
  intro i s t o h ho
  have hst := (exec_next_answer h ho).st_mem
  refine ⟨?_, ?_, ?_, ?_, ?_⟩
  · rintro ent (rfl | rfl | rfl | rfl) <;> exact hst
  · rintro ent (rfl | rfl) <;> exact List.mem_singleton.mp hst
  · rintro e rfl
    rw [failures_buildOf] at hst
    exact List.mem_singleton.mp hst
  · rintro (⟨ent, rfl⟩ | hset)
    · exact hst
    · simp only [List.mem_cons, List.not_mem_nil, or_false] at hset
      obtain rfl | rfl | rfl | rfl := hset <;> exact hst
  · rintro row hrow rfl
    obtain ⟨e, g, hg, rfl⟩ := exists_get_of_mem_getRows hrow
    have hcases := (List.mem_cons.mp hst).imp_right (mem_failures_parseOf_get hg).mp
    obtain hok | hframe | ⟨hunexpected, hecho⟩ | hshort := hcases
    · simp [hok]
    · have hne : ∀ st ∈ frameFailures,
          st ∉ [Status.illegalOp, .illegalEntry] ∧ st ≠ .unexpectedOpcode := by decide
      obtain ⟨hlegal, hexpected⟩ := hne _ hframe
      exact ⟨hlegal, fun hunexpected => absurd hunexpected hexpected⟩
    · exact ⟨by simp [hunexpected], fun _ => hecho⟩
    · simp [hshort]

/-- Settles O56: outputs without an FV bit leave the snapshot, and only PARSE of a get entry gives one. -/
theorem snapshotChangesOnlyOnOkGet : Obligations.SnapshotChangesOnlyOnOkGet := by
  intro i s t o n h ho hchanged
  have hfv : o.fv ≠ 0 := fun hfv => hchanged (update_of_no_group n hfv)
  obtain ⟨hok, e, g, rfl, hg⟩ := (exec_next_answer h ho).exists_group_of_fv hfv
  exact ⟨hok, getRow s.cfg e, getRow_mem_getRows s.cfg hg, rfl⟩

/-- Settles O21: the two tables row by row, and the bounds status by status. -/
theorem statusAndClassNumbers : Obligations.StatusAndClassNumbers := by
  refine ⟨rfl, rfl, fun st => ?_⟩
  cases st <;> decide

end Sys2Proof.Machine
end

section
/-! PROOFS. Admitted configurations by the clauses of 70_reset_and_hazards.md R233, and the refusal that tells them
from the others. -/

namespace Sys2Proof.Machine

/-! ### The clauses of R233 -/

theorem opcodesDistinct_iff (c : Config) : c.opcodesDistinct = true ↔ c.opcodes.Pairwise (· ≠ ·) :=
  allDistinct_iff c.opcodes

theorem maxLenOk_iff (c : Config) : c.maxLenOk = true ↔ ∀ m, c.maxLen = some m → 261 ≤ m := by
  unfold Config.maxLenOk
  cases c.maxLen <;> simp

theorem pfmtRuleFixed_iff (c : Config) : c.pfmtRuleFixed = true ↔ c.resp.pfmt = ⟨1, 0x03⟩ :=
  decide_eq_true_iff

theorem admitted_iff (c : Config) :
    c.admitted = true ↔
      c.opcodes.Pairwise (· ≠ ·) ∧ (∀ m, c.maxLen = some m → 261 ≤ m) ∧ c.resp.pfmt = ⟨1, 0x03⟩ := by
  rw [Config.admitted, Bool.and_eq_true, Bool.and_eq_true, opcodesDistinct_iff, maxLenOk_iff, pfmtRuleFixed_iff,
    and_assoc]

/-! ### The refusal of a configuration -/

theorem step_no_event {s : State} (hadm : s.cfg.admitted = true) (hs : s.stream = []) :
    step s = .refused .noTransaction := by
  simp only [step, hadm, hs]

/-- With an admitted configuration the step is refused for what the host presents, or it completes. -/
theorem step_ne_configNotAdmitted {s : State} (hadm : s.cfg.admitted = true) :
    step s ≠ .refused .configNotAdmitted := by
  cases hs : s.stream with
  | nil =>
    rw [step_no_event hadm hs]
    nofun
  | cons e rest =>
    cases e with
    | present p =>
      obtain ⟨t, ht⟩ := step_present_completes hadm hs
      rw [ht]
      nofun
    | together p q more =>
      rw [step_together hadm hs]
      nofun
    | reset =>
      rw [step_reset hadm hs]
      nofun

theorem step_configNotAdmitted_iff (s : State) :
    step s = .refused .configNotAdmitted ↔ ¬ s.cfg.admitted = true :=
  ⟨fun h hadm => step_ne_configNotAdmitted hadm h,
    fun hadm => step_of_not_admitted (Bool.eq_false_of_not_eq_true hadm)⟩

end Sys2Proof.Machine
end

section
/-! PROOFS. The statements of 70_reset_and_hazards.md. -/

namespace Sys2Proof.Machine

/-- Settles O10: the step refuses exactly what is not admitted, and what is admitted meets the three clauses. -/
theorem stepNeedsAdmittedConfig : Obligations.StepNeedsAdmittedConfig := by
  intro s
  exact (step_configNotAdmitted_iff s).trans (not_congr (admitted_iff s.cfg))

end Sys2Proof.Machine
end

section
/-! PROOFS. The outputs while they hold no value, and what a step does with the event the host presents next. -/

namespace Sys2Proof.Machine

variable {s : State}

/-! ### Outputs without a value (70_reset_and_hazards.md R231) -/

theorem readOutputs_of_none (h : s.outputs = none) : readOutputs s = .error .noOutputYet := by
  simp only [readOutputs, h]

theorem inv_of_no_outputs (h : s.outputs = none) : Inv s := by
  intro o ho
  rw [h] at ho
  cases ho

/-! ### The next event of the host -/

/-- An admitted block with an event to take completes it, or refuses it because transactions came together. -/
theorem step_event_cases {e : HostEvent} {rest : List HostEvent} (hadm : s.cfg.admitted = true)
    (hs : s.stream = e :: rest) : (∃ t, step s = .next t) ∨ step s = .refused .concurrentTransactions := by
  cases e with
  | present p => exact .inl (step_present_completes hadm hs)
  | together p q more => exact .inr (step_together hadm hs)
  | reset => exact .inl ⟨_, step_reset hadm hs⟩

end Sys2Proof.Machine
end

section
/-! PROOFS. The statements about a reset and about a host that presents nothing (10_state.md section 4,
60_exceptions.md section 5, 70_reset_and_hazards.md section 1). -/

namespace Sys2Proof.Machine

/-- Settles O9: an event is completed or refused for another reason, so this refusal leaves only an empty stream. -/
theorem noStepWithoutTransaction : Obligations.NoStepWithoutTransaction := by
  intro s hadm
  refine ⟨step_no_event hadm, fun hstep => ?_⟩
  cases hs : s.stream with
  | nil => rfl
  | cons e rest =>
    obtain ⟨t, hnext⟩ | hrefused := step_event_cases hadm hs
    · cases hnext.symm.trans hstep
    · cases hrefused.symm.trans hstep

/-- Settles O11: the step of a reset is `resetBlock`, which leaves the outputs without a value. -/
theorem resetClearsAcc : Obligations.ResetClearsAcc := by
  intro s rest hadm hs
  exact ⟨resetBlock rest s, step_reset hadm hs, rfl, readOutputs_of_none (resetBlock_outputs s rest)⟩

/-- Settles O12, field by field; that CFG0 is admitted is evaluated. -/
theorem stateAfterReset : Obligations.StateAfterReset := by
  refine ⟨fun c => ⟨resetWith_acc c, resetWith_cfg c, ?_⟩, resetWith_acc Config.cfg0, ?_, by decide⟩
  · exact readOutputs_of_none (resetWith_outputs c)
  · exact readOutputs_of_none (resetWith_outputs Config.cfg0)

/-- Settles O13: a reset leaves no outputs for the invariant to speak of. -/
theorem resetMeetsInvariant : Obligations.ResetMeetsInvariant :=
  ⟨inv_of_no_outputs (resetWith_outputs Config.cfg0), fun c => inv_of_no_outputs (resetWith_outputs c)⟩

end Sys2Proof.Machine
end
